-- ==== Sys2Proof/Word.lean ====
section
/-! DEFINITION. The widths of the machine: words of 16 bits, bytes of 8 bits
(spec 00_scope.md R5, R7; 20_memory.md R50). -/

namespace Sys2Proof

/-- A register, an address, an immediate: 16 bits (00_scope.md R5, R8). -/
abbrev Word := BitVec 16

/-- The unit of addressing: 8 bits (20_memory.md R50). -/
abbrev Byte := BitVec 8

end Sys2Proof
end

