-- ==== Sys2Proof/Syntax.lean ====
section
/-! DEFINITION. The instructions of the D16: register numbers, condition codes, and one constructor
for each row of spec/opcode_table.json (30_encoding.md R95, R104). -/

namespace Sys2Proof

/-- The number of a general register, r0 to r7: a 3 bit field (10_state.md R21). -/
abbrev Reg := BitVec 3

/-- The number of a coprocessor register, cr0 to cr15: a 4 bit field (10_state.md R31, 90_conflicts.md C2). -/
abbrev CrNum := BitVec 4

/-- The 16 condition mnemonics, in the order of their codes (45_control.md R180). -/
inductive Cond where
  | nv | eq | ne | os | oc | hi | ls | p | n | cs | cc | ge | g | le | l | al
deriving DecidableEq, Repr

/-- One constructor for each row of the opcode table. A suffix tells the form: `RR` two registers, `RI`
register and immediate word, `R` address or target in a register, `A` absolute address, `D` register plus
displacement, `I` immediate word, `B<k>` the byte encoding of MOV for r<k>. -/
inductive Instr where
  /-- `ADD rD, rS`. -/
  | addRR (rD rS : Reg)
  /-- `ADD rD, imm16`. -/
  | addRI (rD : Reg) (imm : Word)
  /-- `SUB rD, rS`. -/
  | subRR (rD rS : Reg)
  /-- `SUB rD, imm16`. -/
  | subRI (rD : Reg) (imm : Word)
  /-- `PUSH rD[, rS]`; `spn` is the raw field that selects the stack register (30_encoding.md R91). -/
  | pushR (spn rD : Reg)
  /-- `PUSH imm16[, rS]`. -/
  | pushI (spn : Reg) (imm : Word)
  /-- `POP rD[, rS]`. -/
  | pop (spn rD : Reg)
  /-- `MOV r0, imm8`, opcode 5 (30_encoding.md R88). -/
  | movB0 (imm8 : Byte)
  /-- `MOV r1, imm8`, opcode 6 (30_encoding.md R88). -/
  | movB1 (imm8 : Byte)
  /-- `MOV r2, imm8`, opcode 7 (30_encoding.md R88). -/
  | movB2 (imm8 : Byte)
  /-- `MOV r3, imm8`, opcode 8 (30_encoding.md R88). -/
  | movB3 (imm8 : Byte)
  /-- `MOV r4, imm8`, opcode 9 (30_encoding.md R88). -/
  | movB4 (imm8 : Byte)
  /-- `MOV r5, imm8`, opcode 10 (30_encoding.md R88). -/
  | movB5 (imm8 : Byte)
  /-- `MOV r6, imm8`, opcode 11 (30_encoding.md R88). -/
  | movB6 (imm8 : Byte)
  /-- `MOV r7, imm8`, opcode 12 (30_encoding.md R88). -/
  | movB7 (imm8 : Byte)
  /-- `MOV rD, rS`. -/
  | movRR (rD rS : Reg)
  /-- `MOV rD, imm16`. -/
  | movRI (rD : Reg) (imm : Word)
  /-- `AND rD, rS`. -/
  | andRR (rD rS : Reg)
  /-- `AND rD, imm16`. -/
  | andRI (rD : Reg) (imm : Word)
  /-- `OR rD, rS`. -/
  | orRR (rD rS : Reg)
  /-- `OR rD, imm16`. -/
  | orRI (rD : Reg) (imm : Word)
  /-- `XOR rD, rS`. -/
  | xorRR (rD rS : Reg)
  /-- `XOR rD, imm16`. -/
  | xorRI (rD : Reg) (imm : Word)
  /-- `NOT rD`. -/
  | not (rD : Reg)
  /-- `NEG rD`. -/
  | neg (rD : Reg)
  /-- `LD rD, [rS]`. -/
  | ldR (rD rS : Reg)
  /-- `LD rD, [imm16]`. -/
  | ldA (rD : Reg) (imm : Word)
  /-- `LD rD, [rS+imm16]`. -/
  | ldD (rD rS : Reg) (imm : Word)
  /-- `LD.b rD, [rS]`. -/
  | ldbR (rD rS : Reg)
  /-- `LD.b rD, [imm16]`. -/
  | ldbA (rD : Reg) (imm : Word)
  /-- `LD.b rD, [rS+imm16]`. -/
  | ldbD (rD rS : Reg) (imm : Word)
  /-- `ST [rS], rD`. -/
  | stR (rD rS : Reg)
  /-- `ST [imm16], rD`. -/
  | stA (rD : Reg) (imm : Word)
  /-- `ST [rS+imm16], rD`. -/
  | stD (rD rS : Reg) (imm : Word)
  /-- `ST.b [rS], rD`. -/
  | stbR (rD rS : Reg)
  /-- `ST.b [imm16], rD`. -/
  | stbA (rD : Reg) (imm : Word)
  /-- `ST.b [rS+imm16], rD`. -/
  | stbD (rD rS : Reg) (imm : Word)
  /-- `CMP rD, rS`. -/
  | cmpRR (rD rS : Reg)
  /-- `CMP rD, imm16`. -/
  | cmpRI (rD : Reg) (imm : Word)
  /-- `JMP.CC rD`. -/
  | jmpR (cond : Cond) (rD : Reg)
  /-- `JMP.CC imm16`. -/
  | jmpI (cond : Cond) (imm : Word)
  /-- `CALL.CC rD`. -/
  | callR (cond : Cond) (rD : Reg)
  /-- `CALL.CC imm16`. -/
  | callI (cond : Cond) (imm : Word)
  /-- `RET`. -/
  | ret
  /-- `SHL rD, rS`. -/
  | shlRR (rD rS : Reg)
  /-- `SHL rD, imm16`. -/
  | shlRI (rD : Reg) (imm : Word)
  /-- `SHR rD, rS`. -/
  | shrRR (rD rS : Reg)
  /-- `SHR rD, imm16`. -/
  | shrRI (rD : Reg) (imm : Word)
  /-- `ROL rD, rS`. -/
  | rolRR (rD rS : Reg)
  /-- `ROL rD, imm16`. -/
  | rolRI (rD : Reg) (imm : Word)
  /-- `RCL rD, rS`. -/
  | rclRR (rD rS : Reg)
  /-- `RCL rD, imm16`. -/
  | rclRI (rD : Reg) (imm : Word)
  /-- `LDCP rD, cr`. -/
  | ldcp (rD : Reg) (cr : CrNum)
  /-- `ADC rD, rS`. -/
  | adcRR (rD rS : Reg)
  /-- `ADC rD, imm16`. -/
  | adcRI (rD : Reg) (imm : Word)
  /-- `SBB rD, rS`. -/
  | sbbRR (rD rS : Reg)
  /-- `SBB rD, imm16`. -/
  | sbbRI (rD : Reg) (imm : Word)
  /-- `SET.CC rD`. -/
  | set (cond : Cond) (rD : Reg)
  /-- `TEST rD, rS`. -/
  | testRR (rD rS : Reg)
  /-- `TEST rD, imm16`. -/
  | testRI (rD : Reg) (imm : Word)
  /-- `PUSHLR`. -/
  | pushlr
  /-- `SAR rD, rS`. -/
  | sarRR (rD rS : Reg)
  /-- `SAR rD, imm16`. -/
  | sarRI (rD : Reg) (imm : Word)
deriving DecidableEq, Repr

end Sys2Proof
end

