-- ==== Sys2Proof/Config.lean ====
section
/-! DEFINITION. The parameters the spec leaves to the implementation (00_scope.md R6, 92_eei_decisions.md),
and the free values: what the spec leaves undetermined, as opaque constants that no proof can evaluate. -/

namespace Sys2Proof

/-- BYTE_ORDER, decision D2 (20_memory.md R54). -/
inductive ByteOrder where
  | little
  | big
deriving DecidableEq, Repr

/-- SUB_CARRY_POLARITY, decision D6 (10_state.md R27, 90_conflicts.md C4). -/
inductive CarryPolarity where
  | borrow
  | notBorrow
deriving DecidableEq, Repr

/-- V_RULE, decision D7 (10_state.md R28, 90_conflicts.md C3). -/
inductive OverflowRule where
  | signedOverflow
  | oneSided
deriving DecidableEq, Repr

/-- SHIFT_COUNT_BIG, decision D12: what a shift count of 16 or more does (46_shift_rotate.md R206). -/
inductive BigCount where
  | fault
  | mathematical
  | masked
deriving DecidableEq, Repr

/-- LDB_EXTENSION, decision D14 (44_load_store.md R172). -/
inductive Extension where
  | zero
  | sign
deriving DecidableEq, Repr

/-- The names of the four flags (10_state.md R25). -/
inductive FlagName where
  | z | c | s | v
deriving DecidableEq, Repr

/-- A Boolean expression on the flags, in the words of the condition table (45_control.md R180). -/
inductive FlagExpr where
  /-- "False". -/
  | never
  /-- "True". -/
  | always
  /-- A flag is 1. -/
  | isSet (f : FlagName)
  /-- A flag is 0. -/
  | isClear (f : FlagName)
  /-- "S = V". -/
  | sameSV
  /-- "S ≠ V". -/
  | differSV
  /-- "and". -/
  | both (a b : FlagExpr)
  /-- "or". -/
  | either (a b : FlagExpr)
deriving DecidableEq, Repr

/-- Who moves next (00_scope.md R11 item 1, 60_exceptions.md R253): the model's own. -/
inductive Turn where
  /-- The core executes one instruction. -/
  | core
  /-- The timer decrements (R252). -/
  | timerTick
  /-- The transmitter sends a byte (R249). -/
  | uartTransmit
  /-- The outside world delivers the byte `b` to the receiver (R250). -/
  | uartReceive (b : Byte)
  /-- The DMA engine moves byte number `i` of the running transfer (R265). -/
  | dmaMove (i : Nat)
  /-- The DMA engine moves a byte of the running transfer, one of those still to move (R265). -/
  | dmaAny
deriving DecidableEq, Repr

/-- The parameters of 00_scope.md R6, fixed for a run (10_state.md R36): plain data. `dramSize`,
`dmaKeepsLow` and `baudReset` are the model's own, for points the spec leaves open without naming
a parameter (60_exceptions.md R262, R266, R268; 10_state.md R37). -/
structure Config where
  /-- BYTE_ORDER. -/
  byteOrder : ByteOrder
  /-- RAM_LIMIT: the lowest address that is not backed by RAM (20_memory.md R51). -/
  ramLimit : Word
  /-- RESET_PC (70_reset_and_hazards.md R292). -/
  resetPc : Word
  /-- SUB_CARRY_POLARITY. -/
  subCarry : CarryPolarity
  /-- V_RULE. -/
  vRule : OverflowRule
  /-- COND_TABLE, decision D8: the expression of each condition code, by its number. -/
  condTable : Vector FlagExpr 16
  /-- STACK_FIELD_COMPLEMENT, decision D15 (30_encoding.md R91). -/
  stackComplement : Bool
  /-- SHIFT_COUNT_BIG. -/
  shiftCountBig : BigCount
  /-- LDB_EXTENSION. -/
  ldbExtension : Extension
  /-- F_OSC in hertz, decision D31: no rule depends on it (70_reset_and_hazards.md R306). -/
  fOsc : Nat
  /-- DMA_STATUS_ENCODING while no transfer runs, by the 3 bit type (60_exceptions.md R260). -/
  dmaIdleStatus : Vector (BitVec 3) 8
  /-- DMA_STATUS_ENCODING while a transfer runs, by the 3 bit type (60_exceptions.md R260). -/
  dmaBusyStatus : Vector (BitVec 3) 8
  /-- DMA_REMOTE_SHIFT (60_exceptions.md R262). -/
  dmaRemoteShift : Nat
  /-- Whether the DMA engine keeps the low bits of the external address after a transfer, which
  the spec leaves open ("the low bits, if the engine keeps any", 60_exceptions.md R266). -/
  dmaKeepsLow : Bool
  /-- The number of bytes of external DRAM, not stated by the spec (10_state.md R34, 60_exceptions.md R268). -/
  dramSize : Nat
  /-- The integer loaded into the baud divisor at reset: 108 or 109 (10_state.md R37). -/
  baudReset : Word
deriving DecidableEq, Repr

/-- The Expression column of the condition table, literally (45_control.md R180): rows NV, EQ, NE, OS,
OC, HI, LS, P, N, CS, CC, GE, G, LE, L, AL. -/
def Config.printedCondTable : Vector FlagExpr 16 := #v[
  .never,
  .isSet .z,
  .isClear .z,
  .isSet .v,
  .isClear .v,
  .both (.isSet .c) (.isClear .z),
  .both (.isClear .c) (.isSet .z),
  .isClear .s,
  .isSet .s,
  .isSet .c,
  .isClear .c,
  .sameSV,
  .both .sameSV (.isClear .z),
  .either (.isSet .z) .differSV,
  .differSV,
  .always]

/-- "divisor = f_osc / (4 * baudrate)", rounded down (60_exceptions.md R248). -/
def Config.baudDivisor (fOsc baudRate : Nat) : Nat := fOsc / (4 * baudRate)

/-- "D = f_clk / (64 * f_desired)", rounded down (60_exceptions.md R255). No rule depends on it. -/
def Config.soundDivisor (fClk frequency : Nat) : Nat := fClk / (64 * frequency)

/-- The parameters at reset: the spec's own choice where 00_scope.md R6 gives one, else a
DESIGN CHOICE (notes/assumptions 2, 3, 4, 8, 21, 22). -/
def Config.chosen : Config where
  byteOrder := .little
  ramLimit := 0xFF00#16
  resetPc := 0x0000#16
  subCarry := .borrow
  vRule := .signedOverflow
  condTable := Config.printedCondTable
  stackComplement := true
  shiftCountBig := .fault
  ldbExtension := .zero
  fOsc := 50000000
  dmaIdleStatus := Vector.replicate 8 0#3
  dmaBusyStatus := Vector.replicate 8 1#3
  dmaRemoteShift := 16
  dmaKeepsLow := true
  dramSize := 0x100000000
  baudReset := BitVec.ofNat 16 (Config.baudDivisor 50000000 115200)

/-- The constraints the spec puts on the parameters: RAM_LIMIT is even, 2 to 0xFF00; RESET_PC is
even and in RAM; no idle status equals a busy one; the reset divisor is 108 or 109 (92_eei_decisions.md,
"Parameters, collected"; 70_reset_and_hazards.md R292; 60_exceptions.md R260; 10_state.md R37). -/
def Config.wf (c : Config) : Bool :=
  c.ramLimit.toNat % 2 == 0 && decide (2 ≤ c.ramLimit.toNat) && decide (c.ramLimit.toNat ≤ 0xFF00)
    && c.resetPc.toNat % 2 == 0 && decide (c.resetPc.toNat < c.ramLimit.toNat)
    && c.dmaIdleStatus.toList.all (fun i => c.dmaBusyStatus.toList.all (fun b => i != b))
    && (c.baudReset == 108#16 || c.baudReset == 109#16)

/-- SHIFT_CARRY, decision D11: the value of C after SHL, SHR, SAR, at the given draw. UNVERIFIED: a free
value (46_shift_rotate.md R207). -/
opaque Config.shiftCarry : Nat → Bool

/-- `any16` at the given draw: a read of cr1 to cr15 (10_state.md R32), the DMA count after a transfer
(60_exceptions.md R266). A free value. -/
opaque Config.freeWord : Nat → Word

/-- `any8` at the given draw: a read of IO_UART_DATA with the Rx FIFO empty (60_exceptions.md R246).
A free value. -/
opaque Config.freeByte : Nat → Byte

/-- Bits 7:4 of IO_UART_STATUS, read at the given draw (60_exceptions.md R247). A free value. -/
opaque Config.freeStatusHigh : Nat → BitVec 4

/-- Bits 15:3 of DMA_CONTROL, read at the given draw (60_exceptions.md R260). A free value. -/
opaque Config.freeControlHigh : Nat → BitVec 13

/-- The byte that a full FIFO holds, at the given draw and place, after a byte it has no room for came
(60_exceptions.md R245, R250). A free value. -/
opaque Config.freeFifoByte : Nat → Nat → Byte

/-- The content of the RAM byte at the given address before anything is written there: unspecified
(10_state.md R37). A free value. -/
opaque Config.powerOnByte : Nat → Byte

/-- The content of the external DRAM byte at the given address before anything is written there:
unspecified (10_state.md R37, 60_exceptions.md R270). A free value. -/
opaque Config.dramByte : Nat → Byte

/-- The turns that come, at the given draw, before the next one that fairness asks for: any finite number of turns of
any agents, and any bytes the outside world delivers (60_exceptions.md R250, R253). A free value. -/
opaque Config.freeTurns : Nat → List Turn

/-- Which of the bytes still to move the DMA engine takes at the given draw: the spec does "not fix their order among
themselves" (60_exceptions.md R265). A free value. -/
opaque Config.freeIndex : Nat → Nat

end Sys2Proof
end

