-- ==== Sys2Proof/Decode.lean ====
section
/-! DEFINITION. Decoding and encoding (30_encoding.md), the order of bytes in memory (20_memory.md R54), and
the reading of the stack register field (30_encoding.md R91). -/

namespace Sys2Proof

/-- Why a word is no instruction (30_encoding.md R96): the model faults of decoding, with the word. -/
inductive Reject where
  /-- An opcode that no instruction has (R100). -/
  | illegalInstruction (w : Word)
  /-- A reserved or unused field is not zero, or the immediate flag stands where no immediate form
  exists (R97, R98, R99). -/
  | reservedEncoding (w : Word)
  /-- LD or ST with the displacement flag and no immediate flag (R101). -/
  | undefinedDispWithoutImm (w : Word)
  /-- Too few bytes were given to hold the instruction; never the answer of the machine's own fetch. -/
  | truncated
deriving DecidableEq, Repr

/-! ## Byte order -/

/-- `word(b0, b1)`: the word whose byte at the lower address is `b0` (20_memory.md R54). -/
def wordOf (o : ByteOrder) (b0 b1 : Byte) : Word :=
  match o with
  | .little => b1 ++ b0
  | .big => b0 ++ b1

/-- The byte of `bytes(v)` at the lower address (20_memory.md R54). -/
def firstByte (o : ByteOrder) (v : Word) : Byte :=
  match o with
  | .little => v.extractLsb' 0 8
  | .big => v.extractLsb' 8 8

/-- The byte of `bytes(v)` at the higher address (20_memory.md R54). -/
def secondByte (o : ByteOrder) (v : Word) : Byte :=
  match o with
  | .little => v.extractLsb' 8 8
  | .big => v.extractLsb' 0 8

/-! ## Fields of the instruction word (30_encoding.md R81 to R92) -/

/-- Bit 15, the immediate flag `I` (R81). -/
def immFlag (w : Word) : Bool := w.getLsbD 15

/-- Bits 14:8, the opcode number (R81). -/
def opcodeField (w : Word) : BitVec 7 := w.extractLsb' 8 7

/-- Bits 2:0, `rD`. -/
def rdField (w : Word) : Reg := w.extractLsb' 0 3

/-- Bits 5:3, `rS`, or `spn` of PUSH and POP. -/
def rsField (w : Word) : Reg := w.extractLsb' 3 3

/-- Bits 6:3, the condition code, or the coprocessor register of LDCP. -/
def ccField (w : Word) : BitVec 4 := w.extractLsb' 3 4

/-- Bits 7:6, reserved in formats RR, RI, U, S. -/
def reservedField (w : Word) : BitVec 2 := w.extractLsb' 6 2

/-- Bit 7: `byte` of LD and ST, reserved in formats C and P. -/
def bit7 (w : Word) : Bool := w.getLsbD 7

/-- Bit 6: `disp` of LD and ST. -/
def dispFlag (w : Word) : Bool := w.getLsbD 6

/-- Bits 7:0, the operand byte. -/
def lowByte (w : Word) : Byte := w.extractLsb' 0 8

/-- The code of a condition (45_control.md R180). -/
def Cond.code : Cond → BitVec 4
  | .nv => 0#4
  | .eq => 1#4
  | .ne => 2#4
  | .os => 3#4
  | .oc => 4#4
  | .hi => 5#4
  | .ls => 6#4
  | .p => 7#4
  | .n => 8#4
  | .cs => 9#4
  | .cc => 10#4
  | .ge => 11#4
  | .g => 12#4
  | .le => 13#4
  | .l => 14#4
  | .al => 15#4

/-- The condition of a code; all 16 codes are defined (45_control.md R180). -/
def condOf (c : BitVec 4) : Cond :=
  match c.toNat with
  | 0 => .nv
  | 1 => .eq
  | 2 => .ne
  | 3 => .os
  | 4 => .oc
  | 5 => .hi
  | 6 => .ls
  | 7 => .p
  | 8 => .n
  | 9 => .cs
  | 10 => .cc
  | 11 => .ge
  | 12 => .g
  | 13 => .le
  | 14 => .l
  | _ => .al

/-- The number of the stack register that the field `spn` selects: its bitwise complement under
STACK_FIELD_COMPLEMENT, else the field itself (30_encoding.md R91, 41_stack.md R140). -/
def stackRegister (complement : Bool) (spn : Reg) : Reg :=
  if complement then ~~~spn else spn

/-! ## Decoding, one function per format (30_encoding.md R96) -/

/-- Formats RR and RI (R82). -/
def decodeRR (w imm : Word) (rr : Reg → Reg → Instr) (ri : Reg → Word → Instr) : Except Reject Instr :=
  if reservedField w ≠ 0#2 then .error (.reservedEncoding w)
  else if immFlag w = false then .ok (rr (rdField w) (rsField w))
  else if rsField w ≠ 0#3 then .error (.reservedEncoding w)
  else .ok (ri (rdField w) imm)

/-- PUSH, format S (R91). -/
def decodePush (w imm : Word) : Except Reject Instr :=
  if reservedField w ≠ 0#2 then .error (.reservedEncoding w)
  else if immFlag w = false then .ok (.pushR (rsField w) (rdField w))
  else if rdField w ≠ 0#3 then .error (.reservedEncoding w)
  else .ok (.pushI (rsField w) imm)

/-- POP, format S, no immediate form (R91, R99). -/
def decodePop (w : Word) : Except Reject Instr :=
  if immFlag w = true ∨ reservedField w ≠ 0#2 then .error (.reservedEncoding w)
  else .ok (.pop (rsField w) (rdField w))

/-- Format B (R88). -/
def decodeB (w : Word) (mk : Byte → Instr) : Except Reject Instr :=
  if immFlag w = true then .error (.reservedEncoding w)
  else .ok (mk (lowByte w))

/-- Format U (R92). -/
def decodeU (w : Word) (mk : Reg → Instr) : Except Reject Instr :=
  if immFlag w = true ∨ reservedField w ≠ 0#2 ∨ rsField w ≠ 0#3 then .error (.reservedEncoding w)
  else .ok (mk (rdField w))

/-- Format M (R86, R101): word forms first, byte forms after. -/
def decodeM (w imm : Word) (r : Reg → Reg → Instr) (a : Reg → Word → Instr) (d : Reg → Reg → Word → Instr)
    (br : Reg → Reg → Instr) (ba : Reg → Word → Instr) (bd : Reg → Reg → Word → Instr) :
    Except Reject Instr :=
  if immFlag w = false then
    if dispFlag w = true then .error (.undefinedDispWithoutImm w)
    else .ok ((if bit7 w then br else r) (rdField w) (rsField w))
  else if dispFlag w = true then .ok ((if bit7 w then bd else d) (rdField w) (rsField w) imm)
  else if rsField w ≠ 0#3 then .error (.reservedEncoding w)
  else .ok ((if bit7 w then ba else a) (rdField w) imm)

/-- Format C of JMP and CALL (R87). -/
def decodeC (w imm : Word) (r : Cond → Reg → Instr) (i : Cond → Word → Instr) : Except Reject Instr :=
  if bit7 w = true then .error (.reservedEncoding w)
  else if immFlag w = false then .ok (r (condOf (ccField w)) (rdField w))
  else if rdField w ≠ 0#3 then .error (.reservedEncoding w)
  else .ok (i (condOf (ccField w)) imm)

/-- Format C of SET, no immediate form (R87, R99). -/
def decodeSet (w : Word) (mk : Cond → Reg → Instr) : Except Reject Instr :=
  if immFlag w = true ∨ bit7 w = true then .error (.reservedEncoding w)
  else .ok (mk (condOf (ccField w)) (rdField w))

/-- Format P (R89). -/
def decodeP (w : Word) (mk : Reg → CrNum → Instr) : Except Reject Instr :=
  if immFlag w = true ∨ bit7 w = true then .error (.reservedEncoding w)
  else .ok (mk (rdField w) (ccField w))

/-- Format Z (R90). -/
def decodeZ (w : Word) (i : Instr) : Except Reject Instr :=
  if immFlag w = true ∨ lowByte w ≠ 0#8 then .error (.reservedEncoding w)
  else .ok i

/-- The decoder (R95, R96): the instruction of the word `w`, whose immediate word, where it has one, is
`imm`. Whether it rejects depends on `w` alone. -/
def decode (w imm : Word) : Except Reject Instr :=
  match (opcodeField w).toNat with
  | 1 => decodeRR w imm .addRR .addRI
  | 2 => decodeRR w imm .subRR .subRI
  | 3 => decodePush w imm
  | 4 => decodePop w
  | 5 => decodeB w .movB0
  | 6 => decodeB w .movB1
  | 7 => decodeB w .movB2
  | 8 => decodeB w .movB3
  | 9 => decodeB w .movB4
  | 10 => decodeB w .movB5
  | 11 => decodeB w .movB6
  | 12 => decodeB w .movB7
  | 13 => decodeRR w imm .movRR .movRI
  | 14 => decodeRR w imm .andRR .andRI
  | 15 => decodeRR w imm .orRR .orRI
  | 16 => decodeRR w imm .xorRR .xorRI
  | 17 => decodeU w .not
  | 18 => decodeU w .neg
  | 19 => decodeM w imm .ldR .ldA .ldD .ldbR .ldbA .ldbD
  | 20 => decodeM w imm .stR .stA .stD .stbR .stbA .stbD
  | 21 => decodeRR w imm .cmpRR .cmpRI
  | 22 => decodeC w imm .jmpR .jmpI
  | 23 => decodeC w imm .callR .callI
  | 24 => decodeZ w .ret
  | 25 => decodeRR w imm .shlRR .shlRI
  | 26 => decodeRR w imm .shrRR .shrRI
  | 27 => decodeRR w imm .rolRR .rolRI
  | 28 => decodeRR w imm .rclRR .rclRI
  | 29 => decodeP w .ldcp
  | 31 => decodeRR w imm .adcRR .adcRI
  | 32 => decodeRR w imm .sbbRR .sbbRI
  | 33 => decodeSet w .set
  | 34 => decodeRR w imm .testRR .testRI
  | 35 => decodeZ w .pushlr
  | 36 => decodeRR w imm .sarRR .sarRI
  | _ => .error (.illegalInstruction w)

/-- The decoder on bytes as they lie in memory: the instruction, and the bytes after it. -/
def decodeBytes (o : ByteOrder) : List Byte → Except Reject (Instr × List Byte)
  | b0 :: b1 :: rest =>
    let w := wordOf o b0 b1
    match decode w 0#16 with
    | .error r => .error r
    | .ok i =>
      if immFlag w = false then .ok (i, rest)
      else
        match rest with
        | b2 :: b3 :: rest' => (decode w (wordOf o b2 b3)).map (fun j => (j, rest'))
        | _ => .error .truncated
  | _ => .error .truncated

/-! ## Encoding (30_encoding.md R82 to R95) -/

/-- The first word of formats RR, RI, S and U: the upper byte, 00, a register field, `rD`. -/
def headRR (hi : Byte) (rS rD : Reg) : Word := hi ++ 0#2 ++ rS ++ rD

/-- The first word of format M: the upper byte, `byte`, `disp`, `rS`, `rD`. -/
def headM (hi : Byte) (byte disp : BitVec 1) (rS rD : Reg) : Word := hi ++ byte ++ disp ++ rS ++ rD

/-- The first word of formats C and P: the upper byte, 0, a 4 bit field, `rD`. -/
def headC (hi : Byte) (cc : BitVec 4) (rD : Reg) : Word := hi ++ 0#1 ++ cc ++ rD

/-- The first word of an instruction, unused fields zero (R95, R97). -/
def encodeHead : Instr → Word
  | .addRR rD rS => headRR 0x01#8 rS rD
  | .addRI rD _ => headRR 0x81#8 0#3 rD
  | .subRR rD rS => headRR 0x02#8 rS rD
  | .subRI rD _ => headRR 0x82#8 0#3 rD
  | .pushR spn rD => headRR 0x03#8 spn rD
  | .pushI spn _ => headRR 0x83#8 spn 0#3
  | .pop spn rD => headRR 0x04#8 spn rD
  | .movB0 imm8 => 0x05#8 ++ imm8
  | .movB1 imm8 => 0x06#8 ++ imm8
  | .movB2 imm8 => 0x07#8 ++ imm8
  | .movB3 imm8 => 0x08#8 ++ imm8
  | .movB4 imm8 => 0x09#8 ++ imm8
  | .movB5 imm8 => 0x0A#8 ++ imm8
  | .movB6 imm8 => 0x0B#8 ++ imm8
  | .movB7 imm8 => 0x0C#8 ++ imm8
  | .movRR rD rS => headRR 0x0D#8 rS rD
  | .movRI rD _ => headRR 0x8D#8 0#3 rD
  | .andRR rD rS => headRR 0x0E#8 rS rD
  | .andRI rD _ => headRR 0x8E#8 0#3 rD
  | .orRR rD rS => headRR 0x0F#8 rS rD
  | .orRI rD _ => headRR 0x8F#8 0#3 rD
  | .xorRR rD rS => headRR 0x10#8 rS rD
  | .xorRI rD _ => headRR 0x90#8 0#3 rD
  | .not rD => headRR 0x11#8 0#3 rD
  | .neg rD => headRR 0x12#8 0#3 rD
  | .ldR rD rS => headM 0x13#8 0#1 0#1 rS rD
  | .ldA rD _ => headM 0x93#8 0#1 0#1 0#3 rD
  | .ldD rD rS _ => headM 0x93#8 0#1 1#1 rS rD
  | .ldbR rD rS => headM 0x13#8 1#1 0#1 rS rD
  | .ldbA rD _ => headM 0x93#8 1#1 0#1 0#3 rD
  | .ldbD rD rS _ => headM 0x93#8 1#1 1#1 rS rD
  | .stR rD rS => headM 0x14#8 0#1 0#1 rS rD
  | .stA rD _ => headM 0x94#8 0#1 0#1 0#3 rD
  | .stD rD rS _ => headM 0x94#8 0#1 1#1 rS rD
  | .stbR rD rS => headM 0x14#8 1#1 0#1 rS rD
  | .stbA rD _ => headM 0x94#8 1#1 0#1 0#3 rD
  | .stbD rD rS _ => headM 0x94#8 1#1 1#1 rS rD
  | .cmpRR rD rS => headRR 0x15#8 rS rD
  | .cmpRI rD _ => headRR 0x95#8 0#3 rD
  | .jmpR cond rD => headC 0x16#8 cond.code rD
  | .jmpI cond _ => headC 0x96#8 cond.code 0#3
  | .callR cond rD => headC 0x17#8 cond.code rD
  | .callI cond _ => headC 0x97#8 cond.code 0#3
  | .ret => 0x1800#16
  | .shlRR rD rS => headRR 0x19#8 rS rD
  | .shlRI rD _ => headRR 0x99#8 0#3 rD
  | .shrRR rD rS => headRR 0x1A#8 rS rD
  | .shrRI rD _ => headRR 0x9A#8 0#3 rD
  | .rolRR rD rS => headRR 0x1B#8 rS rD
  | .rolRI rD _ => headRR 0x9B#8 0#3 rD
  | .rclRR rD rS => headRR 0x1C#8 rS rD
  | .rclRI rD _ => headRR 0x9C#8 0#3 rD
  | .ldcp rD cr => headC 0x1D#8 cr rD
  | .adcRR rD rS => headRR 0x1F#8 rS rD
  | .adcRI rD _ => headRR 0x9F#8 0#3 rD
  | .sbbRR rD rS => headRR 0x20#8 rS rD
  | .sbbRI rD _ => headRR 0xA0#8 0#3 rD
  | .set cond rD => headC 0x21#8 cond.code rD
  | .testRR rD rS => headRR 0x22#8 rS rD
  | .testRI rD _ => headRR 0xA2#8 0#3 rD
  | .pushlr => 0x2300#16
  | .sarRR rD rS => headRR 0x24#8 rS rD
  | .sarRI rD _ => headRR 0xA4#8 0#3 rD

/-- The immediate word of an instruction that has one (R80). -/
def encodeImm : Instr → Option Word
  | .addRR _ _ | .subRR _ _ | .pushR _ _ | .pop _ _ | .movB0 _ | .movB1 _ | .movB2 _ | .movB3 _
  | .movB4 _ | .movB5 _ | .movB6 _ | .movB7 _ | .movRR _ _ | .andRR _ _ | .orRR _ _ | .xorRR _ _
  | .not _ | .neg _ | .ldR _ _ | .ldbR _ _ | .stR _ _ | .stbR _ _ | .cmpRR _ _ | .jmpR _ _
  | .callR _ _ | .ret | .shlRR _ _ | .shrRR _ _ | .rolRR _ _ | .rclRR _ _ | .ldcp _ _ | .adcRR _ _
  | .sbbRR _ _ | .set _ _ | .testRR _ _ | .pushlr | .sarRR _ _ => none
  | .addRI _ imm | .subRI _ imm | .pushI _ imm | .movRI _ imm | .andRI _ imm | .orRI _ imm
  | .xorRI _ imm | .ldA _ imm | .ldbA _ imm | .stA _ imm | .stbA _ imm | .cmpRI _ imm | .jmpI _ imm
  | .callI _ imm | .shlRI _ imm | .shrRI _ imm | .rolRI _ imm | .rclRI _ imm | .adcRI _ imm
  | .sbbRI _ imm | .testRI _ imm | .sarRI _ imm => some imm
  | .ldD _ _ imm | .ldbD _ _ imm | .stD _ _ imm | .stbD _ _ imm => some imm

/-- The words of an instruction: one, or two with the immediate (R80). -/
def encode (i : Instr) : List Word := encodeHead i :: (encodeImm i).toList

/-- The words of an instruction as bytes in memory, lowest address first (20_memory.md R54, R60). -/
def encodeBytes (o : ByteOrder) (i : Instr) : List Byte :=
  (encode i).flatMap (fun w => [firstByte o w, secondByte o w])

/-- What the decoder reads from an instruction whose bits are `w`, numbered as spec/opcode_table.json
numbers them: bit 0 is the least significant bit of the first word, the second word is bits 31:16,
and bits above `nbits` are 0. The words are laid out in the byte order of `Config.chosen`. -/
def decodeTableWord (nbits w : Nat) : Option Instr :=
  let o := Config.chosen.byteOrder
  let w0 := BitVec.ofNat 16 (w % 2 ^ nbits)
  let w1 := BitVec.ofNat 16 (w % 2 ^ nbits / 65536)
  match decodeBytes o [firstByte o w0, secondByte o w0, firstByte o w1, secondByte o w1] with
  | .ok (i, _) => some i
  | .error _ => none

end Sys2Proof
end

