-- ==== Sys2Proof/Machine/State.lean ====
section
/-! DEFINITION. The state of the machine, as plain data: everything spec/10_state.md names, with the reasons a
step can stop (60_exceptions.md R232) and the state after reset (10_state.md R37). -/

namespace Sys2Proof.Machine

/-- The four flags (10_state.md R25). -/
structure Flags where
  /-- Z, bit 0 of cr0. -/
  z : Bool
  /-- C, bit 1 of cr0. -/
  c : Bool
  /-- S, bit 2 of cr0. -/
  s : Bool
  /-- V, bit 3 of cr0. -/
  v : Bool
deriving DecidableEq, Repr

/-- Bytes by address: strictly rising addresses; an unlisted address holds no written value. -/
abbrev Memory := List Host.Cell

/-- The UART (60_exceptions.md R244). -/
structure Uart where
  /-- The Tx FIFO, oldest byte first. -/
  tx : List Byte
  /-- The Rx FIFO, oldest byte first. -/
  rx : List Byte
  /-- `ovr`, the Rx overrun indicator. -/
  overrun : Bool
  /-- The baud rate divisor. -/
  baud : Word
  /-- The machine's UART output: every byte the transmitter has sent, oldest first (R249). -/
  sent : List Byte
deriving DecidableEq, Repr

/-- The DMA engine (60_exceptions.md R258). -/
structure Dma where
  /-- `dma_local`. -/
  localAddr : Word
  /-- `dma_remote`, the upper 16 bits of the external address. -/
  remote : Word
  /-- The low bits of the external address that the engine keeps, if it keeps any (R266). -/
  remoteLow : Nat
  /-- `dma_count`. -/
  count : Word
  /-- `dma_type`. -/
  kind : BitVec 3
  /-- `dma_busy`. -/
  busy : Bool
  /-- The numbers of the bytes of the running transfer that have been moved (R265). -/
  moved : List Nat
deriving DecidableEq, Repr

/-- The whole machine. `draws` and `sched` are the model's own fields, not the spec's. -/
structure State where
  /-- r0 to r7 (10_state.md R21). -/
  regs : Vector Word 8
  /-- The instruction pointer (R23). -/
  pc : Word
  /-- The link register (R24). -/
  lr : Word
  /-- Z, C, S, V (R25). -/
  flags : Flags
  /-- Local RAM (R33). -/
  mem : Memory
  /-- The LED latch (R35). -/
  led : Byte
  /-- The UART (R35). -/
  uart : Uart
  /-- The timer count (R35). -/
  timer : Word
  /-- The sound frequency divisors (R35). -/
  voices : Vector (BitVec 14) 4
  /-- The DMA engine (R35). -/
  dma : Dma
  /-- External DRAM (R34). -/
  dram : Memory
  /-- The parameters, fixed for a run (R36). -/
  cfg : Config
  /-- How many free values have been drawn. -/
  draws : Nat
  /-- The turns to come; when it is empty the core moves and a new round of turns begins. -/
  sched : List Turn
deriving DecidableEq, Repr

/-- The width of an access: `n` = 1 or 2 bytes (20_memory.md R53). -/
inductive Size where
  | byte
  | word
deriving DecidableEq, Repr

/-- The direction of an access (20_memory.md R57). -/
inductive Dir where
  | read
  | write
deriving DecidableEq, Repr

/-- The model faults, all of 60_exceptions.md R232. A fault ends the run; every one stands where the spec gives
the hardware no behaviour, so stopping there is safe: no claim about the hardware rests on what follows. -/
inductive Fault where
  /-- Raised by decoding: an opcode that no instruction has (30_encoding.md R100). Safe. -/
  | illegalInstruction (w : Word)
  /-- Raised by decoding: a reserved or unused field is not zero (30_encoding.md R98, R99). Safe. -/
  | reservedEncoding (w : Word)
  /-- Raised by decoding LD, ST: `disp` without `I` (30_encoding.md R101). Safe. -/
  | undefinedDispWithoutImm (w : Word)
  /-- Raised by a 2 byte access or a fetch at an odd address (20_memory.md R55). Safe. -/
  | misalignedAccess (addr : Word)
  /-- Raised by a taken JMP or CALL, or RET, to an odd address (45_control.md R186). Safe. -/
  | misalignedTarget (target : Word)
  /-- Raised by an access or fetch where no RAM is (20_memory.md R58). Safe. -/
  | unbackedAccess (addr : Word)
  /-- Raised by a fetch from the peripheral region (20_memory.md R60). Safe. -/
  | fetchFromPeripheral (addr : Word)
  /-- Raised by an access of the wrong size to a peripheral register (20_memory.md R57). Safe. -/
  | peripheralAccessSize (addr : Word) (n : Size)
  /-- Raised by an access where no peripheral register is (60_exceptions.md R242). Safe. -/
  | unmappedPeripheral (addr : Word)
  /-- Raised by a read of a write-only register or a write of a read-only one (60_exceptions.md R247,
  R248, R254, R261 to R263). Safe. -/
  | peripheralAccessType (addr : Word) (dir : Dir)
  /-- Raised by PUSH of a register and POP when `rD` is the stack register (41_stack.md R144). Safe. -/
  | unspecifiedSameRegister (w : Word)
  /-- Raised by a shift or rotate count of 16 or more under SHIFT_COUNT_BIG = fault (46_shift_rotate.md R206). Safe. -/
  | shiftCountOutOfRange (n : Nat)
  /-- Raised by a write of a reserved value to DMA_CONTROL (60_exceptions.md R259). Safe. -/
  | reservedDmaType (v : Word)
deriving DecidableEq, Repr

/-- What the model refuses. -/
inductive Refusal where
  /-- Raised by an arm of `exec` for an instruction that has no meaning yet; no arm does. Safe. -/
  | notModelled (mnemonic : String)
  /-- Raised by a write of a DMA register while a transfer runs: "the model gives no meaning (it
  refuses the program)" (60_exceptions.md R268). Safe. -/
  | dmaRegisterWhileBusy (addr : Word)
  /-- Raised by the start of a transfer whose count is 0 or odd, whose local address is odd, whose local
  range leaves RAM, or whose external range leaves the DRAM (60_exceptions.md R265, R268). Safe. -/
  | dmaUnsupportedTransfer (localAddr count : Word)
deriving DecidableEq, Repr

/-- The machine right after reset with the parameters `c`: `pc` is RESET_PC and the baud divisor is the one for
115200 baud at 50 MHz (10_state.md R37, 70_reset_and_hazards.md R292). Every other value is a DESIGN CHOICE
(notes/assumptions 1, 6, 7, 9, 10): the spec states none. -/
def State.resetWith (c : Config) : State where
  regs := Vector.replicate 8 0#16
  pc := c.resetPc
  lr := 0#16
  flags := { z := false, c := false, s := false, v := false }
  mem := []
  led := 0#8
  uart := { tx := [], rx := [], overrun := false, baud := c.baudReset, sent := [] }
  timer := 0#16
  voices := Vector.replicate 4 0#14
  dma := { localAddr := 0#16, remote := 0#16, remoteLow := 0, count := 0#16, kind := 0#3,
           busy := false, moved := [] }
  dram := []
  cfg := c
  draws := 0
  sched := []

/-- The machine right after reset, with the parameters of `Config.chosen`. -/
def State.reset : State := State.resetWith Config.chosen

end Sys2Proof.Machine
end

