-- ==== Sys2Proof/Machine/Memory.lean ====
section
/-! DEFINITION. Reading and writing one byte of a memory, and its canonical form: strictly rising addresses. An
unlisted address holds no written value, so no entry can equal what an unlisted address holds. -/

namespace Sys2Proof.Machine

/-- The byte written at the address `a`, if one has been written. -/
def Memory.lookup : Memory → Nat → Option Byte
  | [], _ => none
  | (a', b) :: m, a => if a = a' then some b else Memory.lookup m a

/-- Writes one byte, keeping the addresses strictly rising. -/
def Memory.store : Memory → Nat → Byte → Memory
  | [], a, b => [(a, b)]
  | (a', b') :: m, a, b =>
    if a < a' then (a, b) :: (a', b') :: m
    else if a = a' then (a, b) :: m
    else (a', b') :: Memory.store m a b

/-- Every listed address is above `lo`, and the addresses strictly rise. -/
def Memory.risingAbove : Nat → Memory → Bool
  | _, [] => true
  | lo, (a, _) :: m => decide (lo < a) && Memory.risingAbove a m

/-- The canonical form: the addresses strictly rise. -/
def Memory.wf : Memory → Bool
  | [] => true
  | (a, _) :: m => Memory.risingAbove a m

/-- Every listed address is below `n`. -/
def Memory.below (n : Nat) (m : Memory) : Bool := m.all (fun cell => decide (cell.1 < n))

end Sys2Proof.Machine
end

