-- ==== Sys2Proof/Machine/Ops.lean ====
section
/-! DEFINITION. The named operations over registers and memory that every meaning is written with.
The hardware has no exception, interrupt or trap (60_exceptions.md R230, R233, R235): there is no entry to take
and no return from one, so no operation for either stands here. -/

namespace Sys2Proof.Machine

/-- What an operation answers: a value, a model fault, or a refusal. -/
abbrev Result (α : Type) := Host.Outcome α Fault Refusal

/-- Goes on with the value of `o`; a fault or a refusal ends the instruction (60_exceptions.md R231). -/
def andThen {α β : Type} (o : Result α) (k : α → Result β) : Result β :=
  match o with
  | .next a => k a
  | .fault f => .fault f
  | .refused r => .refused r

/-! ## Named updates: the only ways a state changes -/

/-- `x[r]` (10_state.md R21): no register is hard-wired. -/
def State.reg (s : State) (r : Reg) : Word := s.regs[r.toNat]

/-- `x[r] <- v`. -/
def State.setReg (s : State) (r : Reg) (v : Word) : State := { s with regs := s.regs.set r.toNat v }

/-- `pc <- v`. -/
def State.setPc (s : State) (v : Word) : State := { s with pc := v }

/-- `LR <- v`. -/
def State.setLr (s : State) (v : Word) : State := { s with lr := v }

/-- Writes all four flags. -/
def State.setFlags (s : State) (f : Flags) : State := { s with flags := f }

/-- Replaces the local RAM. -/
def State.setMem (s : State) (m : Memory) : State := { s with mem := m }

/-- Writes the LED latch. -/
def State.setLed (s : State) (b : Byte) : State := { s with led := b }

/-- Replaces the UART. -/
def State.setUart (s : State) (u : Uart) : State := { s with uart := u }

/-- Writes the timer count. -/
def State.setTimer (s : State) (v : Word) : State := { s with timer := v }

/-- Writes the frequency divisor of one voice. -/
def State.setVoice (s : State) (n : BitVec 2) (d : BitVec 14) : State :=
  { s with voices := s.voices.set n.toNat d }

/-- Replaces the DMA engine. -/
def State.setDma (s : State) (d : Dma) : State := { s with dma := d }

/-- Replaces the external DRAM. -/
def State.setDram (s : State) (m : Memory) : State := { s with dram := m }

/-- Counts one free value as drawn. -/
def State.draw (s : State) : State := { s with draws := s.draws + 1 }

/-- Replaces the turns to come. -/
def State.setSched (s : State) (l : List Turn) : State := { s with sched := l }

/-! ## Local RAM (20_memory.md R53, R54) -/

/-- `M[a]`; a byte that nothing has written reads as its unspecified power-on content (10_state.md R37). -/
def State.ramByte (s : State) (a : Word) : Byte :=
  (s.mem.lookup a.toNat).getD (Config.powerOnByte a.toNat)

/-- `word(M[a], M[a+1])`. -/
def State.ramWord (s : State) (a : Word) : Word :=
  wordOf s.cfg.byteOrder (s.ramByte a) (s.ramByte (a + 1#16))

/-- `M[a] <- b`. -/
def State.storeByte (s : State) (a : Word) (b : Byte) : State :=
  s.setMem (s.mem.store a.toNat b)

/-- `(M[a], M[a+1]) <- bytes(v)`. -/
def State.storeWord (s : State) (a v : Word) : State :=
  (s.storeByte a (firstByte s.cfg.byteOrder v)).storeByte (a + 1#16) (secondByte s.cfg.byteOrder v)

/-- The external DRAM byte at `a`; one that nothing has written has unspecified content (10_state.md R37). -/
def State.dramByte (s : State) (a : Nat) : Byte :=
  (s.dram.lookup a).getD (Config.dramByte a)

/-! ## Coprocessor registers (10_state.md R25, R31, R32) -/

/-- One bit as a word's bit: 1 for true. -/
def bitOf (b : Bool) : BitVec 1 := BitVec.ofBool b

/-- cr0: `zext_16(V : S : C : Z)`; bits 15:4 are always 0 (10_state.md R25). -/
def Flags.toWord (f : Flags) : Word := 0#12 ++ bitOf f.v ++ bitOf f.s ++ bitOf f.c ++ bitOf f.z

/-- The value of `cr[n]` and the state after the read: cr0 is the flags; cr1 to cr15 are "Unimplemented" and
give a free value, a new one at each read (10_state.md R32). -/
def readCr (s : State) (n : CrNum) : Word × State :=
  if n = 0#4 then (s.flags.toWord, s) else (Config.freeWord s.draws, s.draw)

end Sys2Proof.Machine
end

