-- ==== Sys2Proof/Machine/Devices.lean ====
section
/-! DEFINITION. The memory-mapped peripheral registers (60_exceptions.md part B): what a read and a write of each
does, and the check of size and place (20_memory.md R57). -/

namespace Sys2Proof.Machine

/-- The peripheral registers (60_exceptions.md R240). -/
inductive Periph where
  | ledData
  | uartData
  | uartStatus
  | uartBaud
  | timerData
  | soundData
  | dmaControl
  | dmaLocal
  | dmaRemote
  | dmaCount
deriving DecidableEq, Repr

/-- The register at or covering an address (60_exceptions.md R240, R242): a 16 bit register occupies
the listed address and the next. -/
def periphAt (addr : Word) : Option Periph :=
  match addr.toNat with
  | 0xFF00 => some .ledData
  | 0xFF02 => some .uartData
  | 0xFF03 => some .uartStatus
  | 0xFF04 => some .uartBaud
  | 0xFF05 => some .uartBaud
  | 0xFF06 => some .timerData
  | 0xFF07 => some .timerData
  | 0xFF08 => some .soundData
  | 0xFF09 => some .soundData
  | 0xFF0A => some .dmaControl
  | 0xFF0B => some .dmaControl
  | 0xFF0C => some .dmaLocal
  | 0xFF0D => some .dmaLocal
  | 0xFF0E => some .dmaRemote
  | 0xFF0F => some .dmaRemote
  | 0xFF10 => some .dmaCount
  | 0xFF11 => some .dmaCount
  | _ => none

/-- The address of a register (60_exceptions.md R240). -/
def periphBase : Periph → Word
  | .ledData => 0xFF00#16
  | .uartData => 0xFF02#16
  | .uartStatus => 0xFF03#16
  | .uartBaud => 0xFF04#16
  | .timerData => 0xFF06#16
  | .soundData => 0xFF08#16
  | .dmaControl => 0xFF0A#16
  | .dmaLocal => 0xFF0C#16
  | .dmaRemote => 0xFF0E#16
  | .dmaCount => 0xFF10#16

/-- The stated size of a register (60_exceptions.md R240). -/
def periphSize : Periph → Size
  | .ledData => .byte
  | .uartData => .byte
  | .uartStatus => .byte
  | .uartBaud => .word
  | .timerData => .word
  | .soundData => .word
  | .dmaControl => .word
  | .dmaLocal => .word
  | .dmaRemote => .word
  | .dmaCount => .word

/-- The register an access of size `n` at `addr` reaches, or the fault (20_memory.md R57, 60_exceptions.md R241,
R242): at its own address and in its stated size. -/
def selectPeriph (addr : Word) (n : Size) : Result Periph :=
  match periphAt addr with
  | none => .fault (.unmappedPeripheral addr)
  | some p =>
    if addr = periphBase p ∧ n = periphSize p then .next p
    else .fault (.peripheralAccessSize addr n)

/-! ## UART (60_exceptions.md R244 to R250) -/

/-- What a full FIFO holds after a byte came for which it has no room: as many bytes as before, each a
free value of the draw `n` (60_exceptions.md R245, R250: dropped, or one replaced; neither is stated). -/
def scramble (n : Nat) : List Byte → List Byte
  | [] => []
  | _ :: q => Config.freeFifoByte n q.length :: scramble n q

/-- IO_UART_STATUS bits 3:0, 1 when the named condition holds: Rx overrun, Rx data ready, Tx empty, Tx space
free (60_exceptions.md R247). -/
def uartStatusLow (u : Uart) : BitVec 4 :=
  bitOf u.overrun ++ bitOf (decide (0 < u.rx.length)) ++ bitOf (decide (u.tx.length = 0))
    ++ bitOf (decide (u.tx.length < 8))

/-- Write of IO_UART_DATA (60_exceptions.md R245). -/
def uartSend (s : State) (b : Byte) : State :=
  if s.uart.tx.length < 8 then s.setUart { s.uart with tx := s.uart.tx ++ [b] }
  else (s.setUart { s.uart with tx := scramble s.draws s.uart.tx }).draw

/-- Read of IO_UART_DATA: the head of the Rx FIFO, which it removes; with the FIFO empty a free value
(60_exceptions.md R246). -/
def uartTake (s : State) : Byte × State :=
  match s.uart.rx with
  | b :: rest => (b, s.setUart { s.uart with rx := rest })
  | [] => (Config.freeByte s.draws, s.draw)

/-! ## DMA (60_exceptions.md R258 to R268) -/

/-- `E`: the external byte address at which a transfer starts (60_exceptions.md R262, R265), with the low bits the
engine keeps from the transfer before, if it keeps any (R266). -/
def dmaExternal (s : State) : Nat :=
  s.dma.remote.toNat * 2 ^ s.cfg.dmaRemoteShift + s.dma.remoteLow

/-- Whether the spec gives the transfer that the DMA registers describe a meaning (60_exceptions.md R265,
R268): a count that is even and not 0, an even local address, a local range in RAM that does not reach 0xFF00, an external range in the DRAM. -/
def dmaAcceptable (s : State) : Bool :=
  s.dma.count.toNat % 2 == 0 && decide (0 < s.dma.count.toNat) && s.dma.localAddr.toNat % 2 == 0
    && decide (s.dma.localAddr.toNat + s.dma.count.toNat ≤ s.cfg.ramLimit.toNat)
    && decide (s.dma.localAddr.toNat + s.dma.count.toNat ≤ 0xFF00)
    && decide (dmaExternal s + s.dma.count.toNat ≤ s.cfg.dramSize)

/-- Write of DMA_CONTROL (60_exceptions.md R259): it starts a transfer. -/
def dmaStart (s : State) (v : Word) : Result State :=
  if v.extractLsb' 3 13 ≠ 0#13 ∨ 2 ≤ (v.extractLsb' 0 3).toNat then .fault (.reservedDmaType v)
  else if s.dma.busy = true then .refused (.dmaRegisterWhileBusy 0xFF0A#16)
  else if dmaAcceptable s = true then
    .next (s.setDma { s.dma with kind := v.extractLsb' 0 3, busy := true, moved := [] })
  else .refused (.dmaUnsupportedTransfer s.dma.localAddr s.dma.count)

/-- A write of one of the three DMA parameter registers, which has a meaning only while no transfer
runs (60_exceptions.md R261 to R263, R268). -/
def dmaParameter (s : State) (addr : Word) (d : Dma) : Result State :=
  if s.dma.busy = true then .refused (.dmaRegisterWhileBusy addr) else .next (s.setDma d)

/-- Bits 2:0 of a read of DMA_CONTROL: DMA_STATUS_ENCODING (60_exceptions.md R260). -/
def dmaStatus (s : State) : BitVec 3 :=
  if s.dma.busy = true then s.cfg.dmaBusyStatus[s.dma.kind.toNat] else s.cfg.dmaIdleStatus[s.dma.kind.toNat]

/-! ## Reads and writes of the registers -/

/-- A read of a peripheral register: its value, an 8 bit one in bits 7:0, and the state after. -/
def readPeriph (s : State) (p : Periph) : Result (Word × State) :=
  match p with
  | .ledData => .next (0#8 ++ s.led, s)
  | .uartData => .next (0#8 ++ (uartTake s).1, (uartTake s).2)
  | .uartStatus => .next (0#8 ++ Config.freeStatusHigh s.draws ++ uartStatusLow s.uart, s.draw)
  | .uartBaud => .fault (.peripheralAccessType 0xFF04#16 .read)
  | .timerData => .next (s.timer, s)
  | .soundData => .fault (.peripheralAccessType 0xFF08#16 .read)
  | .dmaControl => .next (Config.freeControlHigh s.draws ++ dmaStatus s, s.draw)
  | .dmaLocal => .fault (.peripheralAccessType 0xFF0C#16 .read)
  | .dmaRemote => .fault (.peripheralAccessType 0xFF0E#16 .read)
  | .dmaCount => .fault (.peripheralAccessType 0xFF10#16 .read)

/-- A write of a peripheral register; an 8 bit one takes bits 7:0 of `v`. -/
def writePeriph (s : State) (p : Periph) (v : Word) : Result State :=
  match p with
  | .ledData => .next (s.setLed (v.extractLsb' 0 8))
  | .uartData => .next (uartSend s (v.extractLsb' 0 8))
  | .uartStatus => .fault (.peripheralAccessType 0xFF03#16 .write)
  | .uartBaud => .next (s.setUart { s.uart with baud := v })
  | .timerData => .next (s.setTimer v)
  | .soundData => .next (s.setVoice (v.extractLsb' 14 2) (v.extractLsb' 0 14))
  | .dmaControl => dmaStart s v
  | .dmaLocal => dmaParameter s 0xFF0C#16 { s.dma with localAddr := v }
  | .dmaRemote => dmaParameter s 0xFF0E#16 { s.dma with remote := v, remoteLow := 0 }
  | .dmaCount => dmaParameter s 0xFF10#16 { s.dma with count := v }

end Sys2Proof.Machine
end

