-- ==== Sys2Proof/Machine/Agents.lean ====
section
/-! DEFINITION. What the agents other than the core do in one move: the timer, the UART transmitter and receiver,
the DMA engine (60_exceptions.md R249, R250, R252, R265, R266). An agent that has nothing to do does nothing. -/

namespace Sys2Proof.Machine

/-- The timer: counts down to 0 and stops there (R252). -/
def timerStep (s : State) : State :=
  if s.timer = 0#16 then s else s.setTimer (s.timer - 1#16)

/-- The transmitter: sends the oldest byte of the Tx FIFO (R249). -/
def transmitStep (s : State) : State :=
  match s.uart.tx with
  | [] => s
  | b :: rest => s.setUart { s.uart with tx := rest, sent := s.uart.sent ++ [b] }

/-- The receiver: a byte comes in; with the Rx FIFO full the overrun bit is set for good and what the FIFO
holds is not determined (R247, R250). -/
def receiveStep (b : Byte) (s : State) : State :=
  if s.uart.rx.length < 8 then s.setUart { s.uart with rx := s.uart.rx ++ [b] }
  else (s.setUart { s.uart with rx := scramble s.draws s.uart.rx, overrun := true }).draw

/-- The local address of byte `i` of the transfer (R265). -/
def dmaLocalByte (s : State) (i : Nat) : Word := s.dma.localAddr + BitVec.ofNat 16 i

/-- One byte copied between local RAM and external DRAM: type 000 is DMA_WRITE, type 001 DMA_READ (R264, R265). -/
def dmaCopy (s : State) (i : Nat) : State :=
  if s.dma.kind = 0#3 then
    s.setDram (s.dram.store (dmaExternal s + i) (s.ramByte (dmaLocalByte s i)))
  else s.storeByte (dmaLocalByte s i) (s.dramByte (dmaExternal s + i))

/-- The engine after its last byte (R265, R266): idle; the address registers hold the addresses after the
final ones; the count is not determined. -/
def dmaFinish (s : State) : State :=
  (s.setDma
    { localAddr := s.dma.localAddr + s.dma.count
      remote := BitVec.ofNat 16 ((dmaExternal s + s.dma.count.toNat) / 2 ^ s.cfg.dmaRemoteShift)
      remoteLow :=
        if s.cfg.dmaKeepsLow = true then (dmaExternal s + s.dma.count.toNat) % 2 ^ s.cfg.dmaRemoteShift else 0
      count := Config.freeWord s.draws
      kind := s.dma.kind
      busy := false
      moved := [] }).draw

/-- The DMA engine moves byte `i`, if a transfer runs and the byte is one of it still to move; the last byte
ends the transfer (R265). -/
def dmaStep (i : Nat) (s : State) : State :=
  if s.dma.busy = true ∧ i < s.dma.count.toNat ∧ s.dma.moved.contains i = false then
    if s.dma.moved.length + 1 = s.dma.count.toNat then dmaFinish (dmaCopy s i)
    else (dmaCopy s i).setDma { s.dma with moved := i :: s.dma.moved }
  else s

/-- The bytes of the running transfer still to move (R265). -/
def dmaRemaining (s : State) : List Nat :=
  (List.range s.dma.count.toNat).filter (fun i => !s.dma.moved.contains i)

/-- The byte the DMA engine moves when it may choose: one of those still to move, which one is a free value (R265). -/
def dmaPick (s : State) : Nat :=
  (dmaRemaining s).getD (Config.freeIndex s.draws % (dmaRemaining s).length) 0

/-- The DMA engine moves a byte of its choice while a transfer runs, so each such turn brings the transfer one
byte nearer to its end (R265). -/
def dmaAnyStep (s : State) : State :=
  if s.dma.busy = true then dmaStep (dmaPick s) s.draw else s

/-- One move of the agent whose turn it is; the core's own move is not here. -/
def agentStep (t : Turn) (s : State) : State :=
  match t with
  | .core => s
  | .timerTick => timerStep s
  | .uartTransmit => transmitStep s
  | .uartReceive b => receiveStep b s
  | .dmaMove i => dmaStep i s
  | .dmaAny => dmaAnyStep s

/-- One round of turns, from the draw `n`: a turn of the timer, one of the transmitter and one of the DMA engine, and
before, between and after them any finite number of turns of anyone. So no bound on a wait can be proved, and yet no
agent is left out for ever: the weak fairness of R249, R253 and R265. -/
def roundOfTurns (n : Nat) : List Turn :=
  Config.freeTurns n ++ .timerTick :: (Config.freeTurns (n + 1) ++ .uartTransmit ::
    (Config.freeTurns (n + 2) ++ .dmaAny :: Config.freeTurns (n + 3)))

/-- `s` with a new round of turns to come, which draws four free values. -/
def State.newRound (s : State) : State :=
  { s with draws := s.draws + 4, sched := roundOfTurns s.draws }

end Sys2Proof.Machine
end

