-- ==== Sys2Proof/Machine/Access.lean ====
section
/-! DEFINITION. `MemRead` and `MemWrite` (20_memory.md R53), and the fetch of an instruction's words (R60). -/

namespace Sys2Proof.Machine

/-- What an address that passed the checks names. -/
inductive Place where
  | ram
  | device (p : Periph)
deriving DecidableEq, Repr

/-- Steps 1 to 3 of an access, in their order (20_memory.md R53). -/
def locate (s : State) (addr : Word) (n : Size) : Result Place :=
  if n = .word ∧ addr.toNat % 2 = 1 then .fault (.misalignedAccess addr)
  else if 0xFF00 ≤ addr.toNat then andThen (selectPeriph addr n) (fun p => .next (.device p))
  else if s.cfg.ramLimit.toNat ≤ addr.toNat then .fault (.unbackedAccess addr)
  else .next .ram

/-- The RAM content that a read of size `n` returns; a byte stands in bits 7:0 (20_memory.md R53 step 4). -/
def State.ramRead (s : State) (addr : Word) (n : Size) : Word :=
  match n with
  | .byte => 0#8 ++ s.ramByte addr
  | .word => s.ramWord addr

/-- The RAM after a write of size `n`; a byte is bits 7:0 of `v` (20_memory.md R53 step 4). -/
def State.ramWrite (s : State) (addr : Word) (n : Size) (v : Word) : State :=
  match n with
  | .byte => s.storeByte addr (v.extractLsb' 0 8)
  | .word => s.storeWord addr v

/-- `MemRead(addr, n)`: the value, and the state after, since some device reads have an effect (20_memory.md
R53, R67). -/
def memRead (s : State) (addr : Word) (n : Size) : Result (Word × State) :=
  andThen (locate s addr n) (fun place =>
    match place with
    | .ram => .next (s.ramRead addr n, s)
    | .device p => readPeriph s p)

/-- `MemWrite(addr, n, v)` (20_memory.md R53). -/
def memWrite (s : State) (addr : Word) (n : Size) (v : Word) : Result State :=
  andThen (locate s addr n) (fun place =>
    match place with
    | .ram => .next (s.ramWrite addr n v)
    | .device p => writePeriph s p v)

/-- The fetch of one instruction word: never from a peripheral register (20_memory.md R60). -/
def fetchWord (s : State) (addr : Word) : Result Word :=
  if addr.toNat % 2 = 1 then .fault (.misalignedAccess addr)
  else if 0xFF00 ≤ addr.toNat then .fault (.fetchFromPeripheral addr)
  else if s.cfg.ramLimit.toNat ≤ addr.toNat then .fault (.unbackedAccess addr)
  else .next (s.ramWord addr)

/-- The model fault of a rejected word (60_exceptions.md R232). The machine decodes whole words, so
`truncated` never reaches this function. -/
def rejectFault (w : Word) : Reject → Fault
  | .illegalInstruction v => .illegalInstruction v
  | .reservedEncoding v => .reservedEncoding v
  | .undefinedDispWithoutImm v => .undefinedDispWithoutImm v
  | .truncated => .illegalInstruction w

/-- The answer of the decoder as an outcome. -/
def decoded (w imm : Word) : Result Instr :=
  match decode w imm with
  | .ok i => .next i
  | .error r => .fault (rejectFault w r)

/-- The instruction at `pc`: fetch of the first word, its checks, then the immediate word if there is one
(30_encoding.md R96, 60_exceptions.md R234). -/
def fetchInstr (s : State) : Result Instr :=
  andThen (fetchWord s s.pc) (fun w =>
    andThen (decoded w 0#16) (fun i =>
      if immFlag w = false then .next i
      else andThen (fetchWord s (s.pc + 2#16)) (fun imm => decoded w imm)))

/-- Two words stored in RAM at `pc`, in the byte order of the machine. -/
def State.layWords (s : State) (w0 w1 : Word) : State :=
  (s.storeWord s.pc w0).storeWord (s.pc + 2#16) w1

end Sys2Proof.Machine
end

