-- ==== Sys2Proof/Machine/Operands.lean ====
section
/-! DEFINITION. The operand forms: the second operand (30_encoding.md R85), the effective address of LD and ST
(44_load_store.md R170), and the address of the next instruction (30_encoding.md R84). -/

namespace Sys2Proof.Machine

/-- `op2`: a register, or the immediate word (30_encoding.md R85, R93). -/
inductive Operand where
  | reg (r : Reg)
  | imm (v : Word)
deriving DecidableEq, Repr

/-- The value of `op2` (30_encoding.md R85). -/
def Operand.value (o : Operand) (s : State) : Word :=
  match o with
  | .reg r => s.reg r
  | .imm v => v

/-- `next_pc` of a one word instruction, mod 65536 (30_encoding.md R84). -/
def State.afterOne (s : State) : Word := s.pc + 2#16

/-- `next_pc` of an instruction with an immediate word, mod 65536 (30_encoding.md R84). -/
def State.afterTwo (s : State) : Word := s.pc + 4#16

/-- `next_pc` of an instruction with this operand. -/
def Operand.nextPc (o : Operand) (s : State) : Word :=
  match o with
  | .reg _ => s.afterOne
  | .imm _ => s.afterTwo

/-- The addressing modes of LD and ST (44_load_store.md R170). -/
inductive AddrMode where
  /-- `[rS]` -/
  | indirect (rS : Reg)
  /-- `[immediate]` -/
  | absolute (imm : Word)
  /-- `[rS+immediate]` -/
  | displaced (rS : Reg) (imm : Word)
deriving DecidableEq, Repr

/-- The effective address, mod 65536 (44_load_store.md R170, 20_memory.md R59). -/
def AddrMode.address (m : AddrMode) (s : State) : Word :=
  match m with
  | .indirect rS => s.reg rS
  | .absolute imm => imm
  | .displaced rS imm => s.reg rS + imm

/-- `next_pc` of an instruction with this addressing mode. -/
def AddrMode.nextPc (m : AddrMode) (s : State) : Word :=
  match m with
  | .indirect _ => s.afterOne
  | .absolute _ => s.afterTwo
  | .displaced _ _ => s.afterTwo

/-- The stack register that the field `spn` selects on this machine (41_stack.md R140). -/
def State.stackReg (s : State) (spn : Reg) : Reg := stackRegister s.cfg.stackComplement spn

end Sys2Proof.Machine
end

