-- ==== Sys2Proof/Machine/Flags.lean ====
section
/-! DEFINITION. Flag computations (10_state.md R26 to R29) and the conditions on the flags
(45_control.md R180). -/

namespace Sys2Proof.Machine

/-- A carry or borrow in, as a number. -/
def carryIn (c : Bool) : Nat := if c then 1 else 0

/-- The unbounded sum `u(a) + u(b) + cin` (40_arithmetic.md R121, R125). -/
def sumOf (a b : Word) (cin : Bool) : Nat := a.toNat + b.toNat + carryIn cin

/-- The sum mod 65536. -/
def sumWord (a b : Word) (cin : Bool) : Word := BitVec.ofNat 16 (sumOf a b cin)

/-- The unbounded difference `u(a) - u(b) - cin` (40_arithmetic.md R122, R126). -/
def diffOf (a b : Word) (cin : Bool) : Int := (a.toNat : Int) - (b.toNat : Int) - (carryIn cin : Int)

/-- The difference mod 65536. -/
def diffWord (a b : Word) (cin : Bool) : Word := BitVec.ofInt 16 (diffOf a b cin)

/-- `Z` of a 16 bit result (10_state.md R26). -/
def zeroFlag (res : Word) : Bool := res == 0#16

/-- `S` of a 16 bit result: its bit 15 (10_state.md R26). -/
def signFlag (res : Word) : Bool := res.getLsbD 15

/-- `V` of an addition by the bit formula (10_state.md R28). -/
def addOverflow (a b res : Word) : Bool :=
  (a.getLsbD 15 == b.getLsbD 15) && (res.getLsbD 15 != a.getLsbD 15)

/-- `V` of a subtraction by the bit formula (10_state.md R28). -/
def subOverflow (a b res : Word) : Bool :=
  (a.getLsbD 15 != b.getLsbD 15) && (res.getLsbD 15 != a.getLsbD 15)

/-- V_RULE = one_sided for an addition: "a carry out of ALU bit 14 and not one from ALU bit 15"
(10_state.md R28). -/
def oneSidedOverflow (a b : Word) (cin : Bool) : Bool :=
  decide (32767 < a.toNat % 32768 + b.toNat % 32768 + carryIn cin) && decide (sumOf a b cin ≤ 65535)

/-- The flags after an addition (10_state.md R26 to R28). -/
def addFlags (cfg : Config) (a b : Word) (cin : Bool) : Flags where
  z := zeroFlag (sumWord a b cin)
  s := signFlag (sumWord a b cin)
  c := decide (65535 < sumOf a b cin)
  v := match cfg.vRule with
    | .signedOverflow => addOverflow a b (sumWord a b cin)
    | .oneSided => oneSidedOverflow a b cin

/-- The flags after a subtraction (10_state.md R26 to R28). DEDUCED (notes/assumptions 13): V_RULE = one_sided
changes additions only, as 95_test_vectors.md 3.1 says of its rows. -/
def subFlags (cfg : Config) (a b : Word) (cin : Bool) : Flags where
  z := zeroFlag (diffWord a b cin)
  s := signFlag (diffWord a b cin)
  c := match cfg.subCarry with
    | .borrow => decide (diffOf a b cin < 0)
    | .notBorrow => !decide (diffOf a b cin < 0)
  v := subOverflow a b (diffWord a b cin)

/-- Z and S from the result, V cleared, and the given C: the logic family and ROL with C = 0 (43_logic.md R160,
46_shift_rotate.md R203), the shifts and RCL with their own C (46_shift_rotate.md R200). -/
def resultFlags (res : Word) (c : Bool) : Flags where
  z := zeroFlag res
  s := signFlag res
  c := c
  v := false

/-- The value of a flag. -/
def Flags.get (f : Flags) (n : FlagName) : Bool :=
  match n with
  | .z => f.z
  | .c => f.c
  | .s => f.s
  | .v => f.v

/-- The truth of an expression of the condition table (45_control.md R180). -/
def evalExpr (f : Flags) : FlagExpr → Bool
  | .never => false
  | .always => true
  | .isSet n => f.get n
  | .isClear n => !f.get n
  | .sameSV => f.s == f.v
  | .differSV => f.s != f.v
  | .both a b => evalExpr f a && evalExpr f b
  | .either a b => evalExpr f a || evalExpr f b

/-- `cond(cc)` on the current flags, by the condition table of the machine (45_control.md R180). -/
def State.holds (s : State) (cond : Cond) : Bool := evalExpr s.flags s.cfg.condTable[cond.code.toNat]

end Sys2Proof.Machine
end

