-- ==== Sys2Proof/Machine/Arithmetic.lean ====
section
/-! DEFINITION. ADD, SUB, NEG, CMP, ADC, SBB (40_arithmetic.md). -/

namespace Sys2Proof.Machine

/-- `x[rD] <- a + b + cin` with the flags of an addition (R121, R125). -/
def addOp (cin : Bool) (rD : Reg) (op : Operand) (s : State) : Result State :=
  .next (((s.setReg rD (sumWord (s.reg rD) (op.value s) cin)).setFlags
    (addFlags s.cfg (s.reg rD) (op.value s) cin)).setPc (op.nextPc s))

/-- `x[rD] <- a - b - cin` with the flags of a subtraction (R122, R126). -/
def subOp (cin : Bool) (rD : Reg) (op : Operand) (s : State) : Result State :=
  .next (((s.setReg rD (diffWord (s.reg rD) (op.value s) cin)).setFlags
    (subFlags s.cfg (s.reg rD) (op.value s) cin)).setPc (op.nextPc s))

/-- The flags of `a - b`; no register is written (R124). -/
def cmpOp (rD : Reg) (op : Operand) (s : State) : Result State :=
  .next ((s.setFlags (subFlags s.cfg (s.reg rD) (op.value s) false)).setPc (op.nextPc s))

/-- `ADD rD, rS` (R121). -/
def execAddRR (rD rS : Reg) (s : State) : Result State := addOp false rD (.reg rS) s

/-- `ADD rD, imm16` (R121). -/
def execAddRI (rD : Reg) (imm : Word) (s : State) : Result State := addOp false rD (.imm imm) s

/-- `SUB rD, rS` (R122). -/
def execSubRR (rD rS : Reg) (s : State) : Result State := subOp false rD (.reg rS) s

/-- `SUB rD, imm16` (R122). -/
def execSubRI (rD : Reg) (imm : Word) (s : State) : Result State := subOp false rD (.imm imm) s

/-- `NEG rD`: `0 - rD` with the flags of that subtraction (R123). -/
def execNeg (rD : Reg) (s : State) : Result State :=
  .next (((s.setReg rD (diffWord 0#16 (s.reg rD) false)).setFlags
    (subFlags s.cfg 0#16 (s.reg rD) false)).setPc s.afterOne)

/-- `CMP rD, rS` (R124). -/
def execCmpRR (rD rS : Reg) (s : State) : Result State := cmpOp rD (.reg rS) s

/-- `CMP rD, imm16` (R124). -/
def execCmpRI (rD : Reg) (imm : Word) (s : State) : Result State := cmpOp rD (.imm imm) s

/-- `ADC rD, rS`: adds C too (R125). -/
def execAdcRR (rD rS : Reg) (s : State) : Result State := addOp s.flags.c rD (.reg rS) s

/-- `ADC rD, imm16` (R125). -/
def execAdcRI (rD : Reg) (imm : Word) (s : State) : Result State := addOp s.flags.c rD (.imm imm) s

/-- `SBB rD, rS`: subtracts the C flag itself too, under either SUB_CARRY_POLARITY (R126). -/
def execSbbRR (rD rS : Reg) (s : State) : Result State := subOp s.flags.c rD (.reg rS) s

/-- `SBB rD, imm16` (R126). -/
def execSbbRI (rD : Reg) (imm : Word) (s : State) : Result State := subOp s.flags.c rD (.imm imm) s

end Sys2Proof.Machine
end

