-- ==== Sys2Proof/Machine/Control.lean ====
section
/-! DEFINITION. JMP, CALL, RET, SET (45_control.md). -/

namespace Sys2Proof.Machine

/-- `pc <- target`, which must be even (R186). -/
def transfer (target : Word) (s : State) : Result State :=
  if target.toNat % 2 = 1 then .fault (.misalignedTarget target) else .next (s.setPc target)

/-- JMP (R182): an untaken jump does not check its target. -/
def jumpOp (cond : Cond) (op : Operand) (s : State) : Result State :=
  if s.holds cond = true then transfer (op.value s) s else .next (s.setPc (op.nextPc s))

/-- CALL (R183): `LR` is the address of the next instruction, written only when the call is taken. -/
def callOp (cond : Cond) (op : Operand) (s : State) : Result State :=
  if s.holds cond = true then transfer (op.value s) (s.setLr (op.nextPc s))
  else .next (s.setPc (op.nextPc s))

/-- `JMP.CC rD` (R182). -/
def execJmpR (cond : Cond) (rD : Reg) (s : State) : Result State := jumpOp cond (.reg rD) s

/-- `JMP.CC imm16` (R182). -/
def execJmpI (cond : Cond) (imm : Word) (s : State) : Result State := jumpOp cond (.imm imm) s

/-- `CALL.CC rD` (R183). -/
def execCallR (cond : Cond) (rD : Reg) (s : State) : Result State := callOp cond (.reg rD) s

/-- `CALL.CC imm16` (R183). -/
def execCallI (cond : Cond) (imm : Word) (s : State) : Result State := callOp cond (.imm imm) s

/-- `RET`: `pc <- LR` (R184). -/
def execRet (s : State) : Result State := transfer s.lr s

/-- `SET.CC rD`: 1 or 0, always written (R185). -/
def execSet (cond : Cond) (rD : Reg) (s : State) : Result State :=
  .next ((s.setReg rD (if s.holds cond = true then 1#16 else 0#16)).setPc s.afterOne)

end Sys2Proof.Machine
end

