-- ==== Sys2Proof/Machine/LoadStore.lean ====
section
/-! DEFINITION. LD, LD.b, ST, ST.b (44_load_store.md). -/

namespace Sys2Proof.Machine

/-- Bits 15:8 of `rD` after LD.b: zeros, or copies of bit 7 under LDB_EXTENSION = sign (R172). -/
def extendByte (e : Extension) (b : Byte) : Word :=
  match e with
  | .zero => b.setWidth 16
  | .sign => b.signExtend 16

/-- LD: `x[rD] <- MemRead(ea, 2)` (R171). -/
def loadWord (rD : Reg) (m : AddrMode) (s : State) : Result State :=
  andThen (memRead s (m.address s) .word) (fun vt =>
    .next ((vt.2.setReg rD vt.1).setPc (m.nextPc s)))

/-- LD.b: `x[rD]` is the byte at `ea`, extended (R172). -/
def loadByte (rD : Reg) (m : AddrMode) (s : State) : Result State :=
  andThen (memRead s (m.address s) .byte) (fun vt =>
    .next ((vt.2.setReg rD (extendByte s.cfg.ldbExtension (vt.1.extractLsb' 0 8))).setPc (m.nextPc s)))

/-- ST and ST.b: `MemWrite(ea, n, x[rD])`, of which ST.b takes bits 7:0 (R173, R174). -/
def storeTo (n : Size) (rD : Reg) (m : AddrMode) (s : State) : Result State :=
  andThen (memWrite s (m.address s) n (s.reg rD)) (fun t => .next (t.setPc (m.nextPc s)))

/-- `LD rD, [rS]` (R171). -/
def execLdR (rD rS : Reg) (s : State) : Result State := loadWord rD (.indirect rS) s

/-- `LD rD, [imm16]` (R171). -/
def execLdA (rD : Reg) (imm : Word) (s : State) : Result State := loadWord rD (.absolute imm) s

/-- `LD rD, [rS+imm16]` (R171). -/
def execLdD (rD rS : Reg) (imm : Word) (s : State) : Result State := loadWord rD (.displaced rS imm) s

/-- `LD.b rD, [rS]` (R172). -/
def execLdbR (rD rS : Reg) (s : State) : Result State := loadByte rD (.indirect rS) s

/-- `LD.b rD, [imm16]` (R172). -/
def execLdbA (rD : Reg) (imm : Word) (s : State) : Result State := loadByte rD (.absolute imm) s

/-- `LD.b rD, [rS+imm16]` (R172). -/
def execLdbD (rD rS : Reg) (imm : Word) (s : State) : Result State := loadByte rD (.displaced rS imm) s

/-- `ST [rS], rD` (R173). -/
def execStR (rD rS : Reg) (s : State) : Result State := storeTo .word rD (.indirect rS) s

/-- `ST [imm16], rD` (R173). -/
def execStA (rD : Reg) (imm : Word) (s : State) : Result State := storeTo .word rD (.absolute imm) s

/-- `ST [rS+imm16], rD` (R173). -/
def execStD (rD rS : Reg) (imm : Word) (s : State) : Result State := storeTo .word rD (.displaced rS imm) s

/-- `ST.b [rS], rD` (R174). -/
def execStbR (rD rS : Reg) (s : State) : Result State := storeTo .byte rD (.indirect rS) s

/-- `ST.b [imm16], rD` (R174). -/
def execStbA (rD : Reg) (imm : Word) (s : State) : Result State := storeTo .byte rD (.absolute imm) s

/-- `ST.b [rS+imm16], rD` (R174). -/
def execStbD (rD rS : Reg) (imm : Word) (s : State) : Result State := storeTo .byte rD (.displaced rS imm) s

end Sys2Proof.Machine
end

