-- ==== Sys2Proof/Machine/Logic.lean ====
section
/-! DEFINITION. AND, OR, XOR, NOT, TEST (43_logic.md). -/

namespace Sys2Proof.Machine

/-- `x[rD] <- res` with Z and S from `res`, C and V cleared (R160). -/
def logicResult (rD : Reg) (res next : Word) (s : State) : Result State :=
  .next (((s.setReg rD res).setFlags (resultFlags res false)).setPc next)

/-- `AND rD, rS` (R161). -/
def execAndRR (rD rS : Reg) (s : State) : Result State :=
  logicResult rD (s.reg rD &&& s.reg rS) s.afterOne s

/-- `AND rD, imm16` (R161). -/
def execAndRI (rD : Reg) (imm : Word) (s : State) : Result State :=
  logicResult rD (s.reg rD &&& imm) s.afterTwo s

/-- `OR rD, rS` (R162). -/
def execOrRR (rD rS : Reg) (s : State) : Result State :=
  logicResult rD (s.reg rD ||| s.reg rS) s.afterOne s

/-- `OR rD, imm16` (R162). -/
def execOrRI (rD : Reg) (imm : Word) (s : State) : Result State :=
  logicResult rD (s.reg rD ||| imm) s.afterTwo s

/-- `XOR rD, rS` (R163). -/
def execXorRR (rD rS : Reg) (s : State) : Result State :=
  logicResult rD (s.reg rD ^^^ s.reg rS) s.afterOne s

/-- `XOR rD, imm16` (R163). -/
def execXorRI (rD : Reg) (imm : Word) (s : State) : Result State :=
  logicResult rD (s.reg rD ^^^ imm) s.afterTwo s

/-- `NOT rD`: every bit inverted (R164). -/
def execNot (rD : Reg) (s : State) : Result State := logicResult rD (~~~s.reg rD) s.afterOne s

/-- The flags of `rD AND op2`; no register is written (R165). -/
def testOp (rD : Reg) (op : Operand) (s : State) : Result State :=
  .next ((s.setFlags (resultFlags (s.reg rD &&& op.value s) false)).setPc (op.nextPc s))

/-- `TEST rD, rS` (R165). -/
def execTestRR (rD rS : Reg) (s : State) : Result State := testOp rD (.reg rS) s

/-- `TEST rD, imm16` (R165). -/
def execTestRI (rD : Reg) (imm : Word) (s : State) : Result State := testOp rD (.imm imm) s

end Sys2Proof.Machine
end

