-- ==== Sys2Proof/Machine/Move.lean ====
section
/-! DEFINITION. MOV, the general and the byte encoding (42_move.md). -/

namespace Sys2Proof.Machine

/-- `x[rD] <- op2`; no flag changes (R150). -/
def movOp (rD : Reg) (op : Operand) (s : State) : Result State :=
  .next ((s.setReg rD (op.value s)).setPc (op.nextPc s))

/-- `x[rD] <- zext_16(imm8)`; no flag changes (R151, 30_encoding.md R94). -/
def movByte (rD : Reg) (imm8 : Byte) (s : State) : Result State :=
  .next ((s.setReg rD (0#8 ++ imm8)).setPc s.afterOne)

/-- `MOV rD, rS` (R150). -/
def execMovRR (rD rS : Reg) (s : State) : Result State := movOp rD (.reg rS) s

/-- `MOV rD, imm16` (R150). -/
def execMovRI (rD : Reg) (imm : Word) (s : State) : Result State := movOp rD (.imm imm) s

/-- `MOV r0, imm8`, opcode 5 (R151). -/
def execMovB0 (imm8 : Byte) (s : State) : Result State := movByte 0#3 imm8 s

/-- `MOV r1, imm8`, opcode 6 (R151). -/
def execMovB1 (imm8 : Byte) (s : State) : Result State := movByte 1#3 imm8 s

/-- `MOV r2, imm8`, opcode 7 (R151). -/
def execMovB2 (imm8 : Byte) (s : State) : Result State := movByte 2#3 imm8 s

/-- `MOV r3, imm8`, opcode 8 (R151). -/
def execMovB3 (imm8 : Byte) (s : State) : Result State := movByte 3#3 imm8 s

/-- `MOV r4, imm8`, opcode 9 (R151). -/
def execMovB4 (imm8 : Byte) (s : State) : Result State := movByte 4#3 imm8 s

/-- `MOV r5, imm8`, opcode 10 (R151). -/
def execMovB5 (imm8 : Byte) (s : State) : Result State := movByte 5#3 imm8 s

/-- `MOV r6, imm8`, opcode 11 (R151). -/
def execMovB6 (imm8 : Byte) (s : State) : Result State := movByte 6#3 imm8 s

/-- `MOV r7, imm8`, opcode 12 (R151). -/
def execMovB7 (imm8 : Byte) (s : State) : Result State := movByte 7#3 imm8 s

end Sys2Proof.Machine
end

