-- ==== Sys2Proof/Machine/Shift.lean ====
section
/-! DEFINITION. SHL, SHR, ROL, RCL, SAR (46_shift_rotate.md). -/

namespace Sys2Proof.Machine

/-- The count that the operand `n` asks for, if it has a meaning: itself up to 15; from 16 on by SHIFT_COUNT_BIG
none, itself, or its low 4 bits (R200, R206). -/
def shiftCount (cfg : Config) (n : Nat) : Option Nat :=
  if n < 16 then some n
  else match cfg.shiftCountBig with
    | .fault => none
    | .mathematical => some n
    | .masked => some (n % 16)

/-- Goes on with the count, or faults (R206). -/
def withCount (s : State) (op : Operand) (k : Nat → Result State) : Result State :=
  match shiftCount s.cfg (op.value s).toNat with
  | some n => k n
  | none => .fault (.shiftCountOutOfRange (op.value s).toNat)

/-- `x[rD] <- res` with Z and S from `res`, V cleared, and the given C (R200). -/
def shiftResult (rD : Reg) (res : Word) (c : Bool) (next : Word) (s : State) : State :=
  ((s.setReg rD res).setFlags (resultFlags res c)).setPc next

/-- SHL, SHR, SAR: the shifted value, with C a free value (R201, R202, R205, R207). -/
def shiftOp (f : Word → Nat → Word) (rD : Reg) (op : Operand) (s : State) : Result State :=
  withCount s op (fun n =>
    .next (shiftResult rD (f (s.reg rD) n) (Config.shiftCarry s.draws) (op.nextPc s) s).draw)

/-- Logical left shift: zeros enter at bit 0 (R201). -/
def shiftLeft (a : Word) (n : Nat) : Word := a <<< n

/-- Logical right shift: zeros enter at bit 15 (R202). -/
def shiftRight (a : Word) (n : Nat) : Word := a >>> n

/-- Arithmetic right shift: copies of bit 15 enter at bit 15 (R205). -/
def shiftArith (a : Word) (n : Nat) : Word := a.sshiftRight n

/-- The rotation of 16 bits (R203; counts of 16 and more as `n mod 16`, R206). -/
def rotate16 (a : Word) (n : Nat) : Word := a.rotateLeft n

/-- The rotation of the 17 bits `C : rD` (R204; counts of 17 and more as `n mod 17`, R206). -/
def rotate17 (t : BitVec 17) (n : Nat) : BitVec 17 := t.rotateLeft n

/-- ROL: C is cleared (R203). -/
def rolOp (rD : Reg) (op : Operand) (s : State) : Result State :=
  withCount s op (fun n =>
    .next (shiftResult rD (rotate16 (s.reg rD) n) false (op.nextPc s) s))

/-- The ring of RCL after `n` steps: C is bit 16, `rD` is bits 15:0 (R204). -/
def rclRing (c : Bool) (a : Word) (n : Nat) : BitVec 17 := rotate17 (bitOf c ++ a) n

/-- RCL (R204). -/
def rclOp (rD : Reg) (op : Operand) (s : State) : Result State :=
  withCount s op (fun n =>
    .next (shiftResult rD ((rclRing s.flags.c (s.reg rD) n).extractLsb' 0 16)
      ((rclRing s.flags.c (s.reg rD) n).getLsbD 16) (op.nextPc s) s))

/-- `SHL rD, rS` (R201). -/
def execShlRR (rD rS : Reg) (s : State) : Result State := shiftOp shiftLeft rD (.reg rS) s

/-- `SHL rD, imm16` (R201). -/
def execShlRI (rD : Reg) (imm : Word) (s : State) : Result State := shiftOp shiftLeft rD (.imm imm) s

/-- `SHR rD, rS` (R202). -/
def execShrRR (rD rS : Reg) (s : State) : Result State := shiftOp shiftRight rD (.reg rS) s

/-- `SHR rD, imm16` (R202). -/
def execShrRI (rD : Reg) (imm : Word) (s : State) : Result State := shiftOp shiftRight rD (.imm imm) s

/-- `ROL rD, rS` (R203). -/
def execRolRR (rD rS : Reg) (s : State) : Result State := rolOp rD (.reg rS) s

/-- `ROL rD, imm16` (R203). -/
def execRolRI (rD : Reg) (imm : Word) (s : State) : Result State := rolOp rD (.imm imm) s

/-- `RCL rD, rS` (R204). -/
def execRclRR (rD rS : Reg) (s : State) : Result State := rclOp rD (.reg rS) s

/-- `RCL rD, imm16` (R204). -/
def execRclRI (rD : Reg) (imm : Word) (s : State) : Result State := rclOp rD (.imm imm) s

/-- `SAR rD, rS` (R205). -/
def execSarRR (rD rS : Reg) (s : State) : Result State := shiftOp shiftArith rD (.reg rS) s

/-- `SAR rD, imm16` (R205). -/
def execSarRI (rD : Reg) (imm : Word) (s : State) : Result State := shiftOp shiftArith rD (.imm imm) s

end Sys2Proof.Machine
end

