-- ==== Sys2Proof/Machine/Stack.lean ====
section
/-! DEFINITION. PUSH, POP, PUSHLR (41_stack.md). -/

namespace Sys2Proof.Machine

/-- The push of `v` on the stack of register `sp`: the store at the decremented address, then the register
(R141). A store that faults changes nothing. -/
def pushValue (sp : Reg) (v next : Word) (s : State) : Result State :=
  andThen (memWrite s (s.reg sp - 2#16) .word v) (fun t =>
    .next ((t.setReg sp (s.reg sp - 2#16)).setPc next))

/-- `PUSH rD[, rS]` (R141); `rD` may not be the stack register (R144). -/
def execPushR (spn rD : Reg) (s : State) : Result State :=
  if rD = s.stackReg spn then .fault (.unspecifiedSameRegister (encodeHead (.pushR spn rD)))
  else pushValue (s.stackReg spn) (s.reg rD) s.afterOne s

/-- `PUSH imm16[, rS]` (R141). -/
def execPushI (spn : Reg) (imm : Word) (s : State) : Result State :=
  pushValue (s.stackReg spn) imm s.afterTwo s

/-- The pop into `rD` from the stack of register `sp`, not `rD` (R142). -/
def popInto (rD sp : Reg) (s : State) : Result State :=
  andThen (memRead s (s.reg sp) .word) (fun vt =>
    .next (((vt.2.setReg rD vt.1).setReg sp (s.reg sp + 2#16)).setPc s.afterOne))

/-- `POP rD[, rS]` (R142); `rD` may not be the stack register (R144). -/
def execPop (spn rD : Reg) (s : State) : Result State :=
  if rD = s.stackReg spn then .fault (.unspecifiedSameRegister (encodeHead (.pop spn rD)))
  else popInto rD (s.stackReg spn) s

/-- `PUSHLR`: `LR` on the r7 stack (R143). -/
def execPushlr (s : State) : Result State := pushValue 7#3 s.lr s.afterOne s

end Sys2Proof.Machine
end

