-- ==== Sys2Proof/Machine/System.lean ====
section
/-! DEFINITION. LDCP (47_system.md). The D16 has no other system instruction (R221). -/

namespace Sys2Proof.Machine

/-- `LDCP rD, cr` (R220): cr0 is the flags, cr1 to cr15 give a free value. -/
def execLdcp (rD : Reg) (cr : CrNum) (s : State) : Result State :=
  .next (((readCr s cr).2.setReg rD (readCr s cr).1).setPc s.afterOne)

end Sys2Proof.Machine
end

