-- ==== Sys2Proof/Machine/Dispatch.lean ====
section
/-! DEFINITION. The dispatch: one arm per constructor of Instr, each one call of its meaning. -/

namespace Sys2Proof.Machine

def exec (i : Instr) (s : State) : Host.Outcome State Fault Refusal :=
  match i with
  | .addRR rD rS => Sys2Proof.Machine.execAddRR rD rS s
  | .addRI rD imm => Sys2Proof.Machine.execAddRI rD imm s
  | .subRR rD rS => Sys2Proof.Machine.execSubRR rD rS s
  | .subRI rD imm => Sys2Proof.Machine.execSubRI rD imm s
  | .pushR spn rD => Sys2Proof.Machine.execPushR spn rD s
  | .pushI spn imm => Sys2Proof.Machine.execPushI spn imm s
  | .pop spn rD => Sys2Proof.Machine.execPop spn rD s
  | .movB0 imm8 => Sys2Proof.Machine.execMovB0 imm8 s
  | .movB1 imm8 => Sys2Proof.Machine.execMovB1 imm8 s
  | .movB2 imm8 => Sys2Proof.Machine.execMovB2 imm8 s
  | .movB3 imm8 => Sys2Proof.Machine.execMovB3 imm8 s
  | .movB4 imm8 => Sys2Proof.Machine.execMovB4 imm8 s
  | .movB5 imm8 => Sys2Proof.Machine.execMovB5 imm8 s
  | .movB6 imm8 => Sys2Proof.Machine.execMovB6 imm8 s
  | .movB7 imm8 => Sys2Proof.Machine.execMovB7 imm8 s
  | .movRR rD rS => Sys2Proof.Machine.execMovRR rD rS s
  | .movRI rD imm => Sys2Proof.Machine.execMovRI rD imm s
  | .andRR rD rS => Sys2Proof.Machine.execAndRR rD rS s
  | .andRI rD imm => Sys2Proof.Machine.execAndRI rD imm s
  | .orRR rD rS => Sys2Proof.Machine.execOrRR rD rS s
  | .orRI rD imm => Sys2Proof.Machine.execOrRI rD imm s
  | .xorRR rD rS => Sys2Proof.Machine.execXorRR rD rS s
  | .xorRI rD imm => Sys2Proof.Machine.execXorRI rD imm s
  | .not rD => Sys2Proof.Machine.execNot rD s
  | .neg rD => Sys2Proof.Machine.execNeg rD s
  | .ldR rD rS => Sys2Proof.Machine.execLdR rD rS s
  | .ldA rD imm => Sys2Proof.Machine.execLdA rD imm s
  | .ldD rD rS imm => Sys2Proof.Machine.execLdD rD rS imm s
  | .ldbR rD rS => Sys2Proof.Machine.execLdbR rD rS s
  | .ldbA rD imm => Sys2Proof.Machine.execLdbA rD imm s
  | .ldbD rD rS imm => Sys2Proof.Machine.execLdbD rD rS imm s
  | .stR rD rS => Sys2Proof.Machine.execStR rD rS s
  | .stA rD imm => Sys2Proof.Machine.execStA rD imm s
  | .stD rD rS imm => Sys2Proof.Machine.execStD rD rS imm s
  | .stbR rD rS => Sys2Proof.Machine.execStbR rD rS s
  | .stbA rD imm => Sys2Proof.Machine.execStbA rD imm s
  | .stbD rD rS imm => Sys2Proof.Machine.execStbD rD rS imm s
  | .cmpRR rD rS => Sys2Proof.Machine.execCmpRR rD rS s
  | .cmpRI rD imm => Sys2Proof.Machine.execCmpRI rD imm s
  | .jmpR cond rD => Sys2Proof.Machine.execJmpR cond rD s
  | .jmpI cond imm => Sys2Proof.Machine.execJmpI cond imm s
  | .callR cond rD => Sys2Proof.Machine.execCallR cond rD s
  | .callI cond imm => Sys2Proof.Machine.execCallI cond imm s
  | .ret => Sys2Proof.Machine.execRet s
  | .shlRR rD rS => Sys2Proof.Machine.execShlRR rD rS s
  | .shlRI rD imm => Sys2Proof.Machine.execShlRI rD imm s
  | .shrRR rD rS => Sys2Proof.Machine.execShrRR rD rS s
  | .shrRI rD imm => Sys2Proof.Machine.execShrRI rD imm s
  | .rolRR rD rS => Sys2Proof.Machine.execRolRR rD rS s
  | .rolRI rD imm => Sys2Proof.Machine.execRolRI rD imm s
  | .rclRR rD rS => Sys2Proof.Machine.execRclRR rD rS s
  | .rclRI rD imm => Sys2Proof.Machine.execRclRI rD imm s
  | .ldcp rD cr => Sys2Proof.Machine.execLdcp rD cr s
  | .adcRR rD rS => Sys2Proof.Machine.execAdcRR rD rS s
  | .adcRI rD imm => Sys2Proof.Machine.execAdcRI rD imm s
  | .sbbRR rD rS => Sys2Proof.Machine.execSbbRR rD rS s
  | .sbbRI rD imm => Sys2Proof.Machine.execSbbRI rD imm s
  | .set cond rD => Sys2Proof.Machine.execSet cond rD s
  | .testRR rD rS => Sys2Proof.Machine.execTestRR rD rS s
  | .testRI rD imm => Sys2Proof.Machine.execTestRI rD imm s
  | .pushlr => Sys2Proof.Machine.execPushlr s
  | .sarRR rD rS => Sys2Proof.Machine.execSarRR rD rS s
  | .sarRI rD imm => Sys2Proof.Machine.execSarRI rD imm s

end Sys2Proof.Machine
end

