-- ==== Sys2Proof/Machine/Step.lean ====
section
/-! DEFINITION. One step of the machine: the move of the agent whose turn it is. -/

namespace Sys2Proof.Machine

/-- One move of the core: fetch, decode, execute (10_state.md R20). -/
def coreStep (s : State) : Host.Outcome State Fault Refusal :=
  andThen (fetchInstr s) (fun i => exec i s)

/-- One step: the first turn of `sched` is taken and its agent moves (00_scope.md R11 item 1). When no turn is left
the core moves and a new round begins, so that from every state each agent's turn comes again (R11 item 7,
60_exceptions.md R249, R253, R265; 70_reset_and_hazards.md R294). -/
def step (s : State) : Host.Outcome State Fault Refusal :=
  match s.sched with
  | [] => coreStep s.newRound
  | .core :: rest => coreStep (s.setSched rest)
  | .timerTick :: rest => .next (agentStep .timerTick (s.setSched rest))
  | .uartTransmit :: rest => .next (agentStep .uartTransmit (s.setSched rest))
  | .uartReceive b :: rest => .next (agentStep (.uartReceive b) (s.setSched rest))
  | .dmaMove i :: rest => .next (agentStep (.dmaMove i) (s.setSched rest))
  | .dmaAny :: rest => .next (agentStep .dmaAny (s.setSched rest))

/-- `s` with the instruction whose bits are `w` (the first word bits 15:0, the second bits 31:16, bits above `nbits`
zero) stored in RAM at `pc`, and the core's turn next. -/
def State.withFetchWord (s : State) (nbits w : Nat) : State :=
  (s.layWords (BitVec.ofNat 16 (w % 2 ^ nbits)) (BitVec.ofNat 16 (w % 2 ^ nbits / 65536))).setSched
    (.core :: s.sched)

end Sys2Proof.Machine
end

