-- ==== Sys2Proof/WellFormed.lean ====
section
/-! DEFINITION. Which instructions have a meaning as far as the instruction alone shows. The encodings the spec
calls reserved, illegal or undefined are not terms of Instr: the decoder refuses them (30_encoding.md R98
to R101). What is left are the forms whose fault can be read off the instruction and the parameters. -/

namespace Sys2Proof

/-- An immediate shift count has a meaning: below 16, or SHIFT_COUNT_BIG gives it one (46_shift_rotate.md R206). -/
def countHasMeaning (c : Config) (imm : Word) : Bool :=
  decide (imm.toNat < 16) || c.shiftCountBig != .fault

/-- An immediate target that is always taken is even (45_control.md R186). -/
def targetHasMeaning (c : Config) (cond : Cond) (imm : Word) : Bool :=
  imm.toNat % 2 == 0 || c.condTable[cond.code.toNat] != .always

/-- Whether no check that looks at the instruction and the parameters alone refuses it: the stack register is
not the data register (41_stack.md R144), the absolute address of a word access is even (20_memory.md R55),
the immediate target of a jump that is always taken is even (45_control.md R186), and an immediate shift count
has a meaning (46_shift_rotate.md R206). -/
def Instr.wellFormed (c : Config) : Instr → Bool
  | .pushR spn rD | .pop spn rD => rD != stackRegister c.stackComplement spn
  | .ldA _ imm | .stA _ imm => imm.toNat % 2 == 0
  | .jmpI cond imm | .callI cond imm => targetHasMeaning c cond imm
  | .shlRI _ imm | .shrRI _ imm | .rolRI _ imm | .rclRI _ imm | .sarRI _ imm => countHasMeaning c imm
  | .addRR _ _ | .addRI _ _ | .subRR _ _ | .subRI _ _ | .pushI _ _ | .movB0 _ | .movB1 _ | .movB2 _
  | .movB3 _ | .movB4 _ | .movB5 _ | .movB6 _ | .movB7 _ | .movRR _ _ | .movRI _ _ | .andRR _ _
  | .andRI _ _ | .orRR _ _ | .orRI _ _ | .xorRR _ _ | .xorRI _ _ | .not _ | .neg _ | .ldR _ _
  | .ldD _ _ _ | .ldbR _ _ | .ldbA _ _ | .ldbD _ _ _ | .stR _ _ | .stD _ _ _ | .stbR _ _
  | .stbA _ _ | .stbD _ _ _ | .cmpRR _ _ | .cmpRI _ _ | .jmpR _ _ | .callR _ _ | .ret | .shlRR _ _
  | .shrRR _ _ | .rolRR _ _ | .rclRR _ _ | .ldcp _ _ | .adcRR _ _ | .adcRI _ _ | .sbbRR _ _
  | .sbbRI _ _ | .set _ _ | .testRR _ _ | .testRI _ _ | .pushlr | .sarRR _ _ => true

end Sys2Proof
end

