-- ==== Sys2Proof/Safety.lean ====
section
/-! DEFINITION. The terms the claims use: the invariant of a safe run, the tables of the spec that say what an
instruction may change (10_state.md R22, R29), the forms of loads, stores and pushes, and the results of the
spec's formulas on unbounded integers. None of them is used by the machine. -/

namespace Sys2Proof.Claims

open Sys2Proof.Machine

/-! ## The invariant -/

/-- What holds in every state of a run that has not stopped: the parameters are admissible (92_eei_decisions.md);
`pc` and `LR` are even (10_state.md R23, 45_control.md R186); the memories are canonical and lie where RAM and DRAM
are (20_memory.md R51, R58); the FIFOs hold at most 8 bytes (60_exceptions.md R244); the DMA type is no reserved
one (R259, R264) and a running transfer is one the spec gives a meaning, with fewer bytes moved than it has,
each at most once (R265, R268). -/
structure Inv (s : State) : Prop where
  cfgAdmissible : s.cfg.wf = true
  pcEven : s.pc.toNat % 2 = 0
  lrEven : s.lr.toNat % 2 = 0
  memCanonical : s.mem.wf = true
  memInRam : s.mem.below s.cfg.ramLimit.toNat = true
  dramCanonical : s.dram.wf = true
  dramInSize : s.dram.below s.cfg.dramSize = true
  txFits : s.uart.tx.length ≤ 8
  rxFits : s.uart.rx.length ≤ 8
  dmaKindLegal : s.dma.kind.toNat < 2
  dmaLowBits : s.dma.remoteLow < 2 ^ s.cfg.dmaRemoteShift
  dmaRunning : s.dma.busy = true → dmaAcceptable s = true
  dmaMovedInRange : ∀ i ∈ s.dma.moved, i < s.dma.count.toNat
  dmaMovedOnce : s.dma.moved.Nodup
  dmaUnfinished : s.dma.busy = true → s.dma.moved.length < s.dma.count.toNat
  dmaIdle : s.dma.busy = false → s.dma.moved = []

/-- The core's turn: no turn is left, or the first one is the core's. -/
def CoreTurn (s : State) : Prop := s.sched = [] ∨ ∃ rest, s.sched = .core :: rest

/-- A word can be fetched at `a` (20_memory.md R60). -/
def Fetchable (s : State) (a : Word) : Prop :=
  a.toNat % 2 = 0 ∧ a.toNat < 0xFF00 ∧ a.toNat < s.cfg.ramLimit.toNat

/-- Byte `i` is one of the running DMA transfer that has not been moved (60_exceptions.md R265). -/
def StillToMove (d : Dma) (i : Nat) : Prop := d.busy = true ∧ i < d.count.toNat ∧ i ∉ d.moved

/-- `n` bytes at `a` are RAM, aligned if they are a word (20_memory.md R53). -/
def InRam (s : State) (a : Word) (n : Size) : Prop :=
  (n = .word → a.toNat % 2 = 0) ∧ a.toNat < 0xFF00 ∧ a.toNat < s.cfg.ramLimit.toNat

/-- `b` is one of the `n` bytes stored at `a`. -/
def Within (a : Word) (n : Size) (b : Word) : Prop := b = a ∨ (n = .word ∧ b = a + 1#16)

/-! ## What an instruction may change -/

/-- The number of the stack register, "sp = 7 - spn" under the complement reading (41_stack.md R140). -/
def stackNumber (c : Config) (spn : Reg) : Reg := if c.stackComplement = true then 7#3 - spn else spn

/-- The Writes column of the register table (10_state.md R22). -/
def writtenRegs (c : Config) : Instr → List Reg
  | .addRR rD _ | .addRI rD _ | .subRR rD _ | .subRI rD _ | .movRR rD _ | .movRI rD _ | .andRR rD _
  | .andRI rD _ | .orRR rD _ | .orRI rD _ | .xorRR rD _ | .xorRI rD _ | .shlRR rD _ | .shlRI rD _
  | .shrRR rD _ | .shrRI rD _ | .rolRR rD _ | .rolRI rD _ | .rclRR rD _ | .rclRI rD _ | .adcRR rD _
  | .adcRI rD _ | .sbbRR rD _ | .sbbRI rD _ | .sarRR rD _ | .sarRI rD _ | .not rD | .neg rD
  | .ldcp rD _ | .set _ rD | .ldR rD _ | .ldA rD _ | .ldD rD _ _ | .ldbR rD _ | .ldbA rD _
  | .ldbD rD _ _ => [rD]
  | .movB0 _ => [0#3]
  | .movB1 _ => [1#3]
  | .movB2 _ => [2#3]
  | .movB3 _ => [3#3]
  | .movB4 _ => [4#3]
  | .movB5 _ => [5#3]
  | .movB6 _ => [6#3]
  | .movB7 _ => [7#3]
  | .pushR spn _ => [stackNumber c spn]
  | .pushI spn _ => [stackNumber c spn]
  | .pop spn rD => [rD, stackNumber c spn]
  | .pushlr => [7#3]
  | .stR _ _ | .stA _ _ | .stD _ _ _ | .stbR _ _ | .stbA _ _ | .stbD _ _ _ | .cmpRR _ _
  | .cmpRI _ _ | .jmpR _ _ | .jmpI _ _ | .callR _ _ | .callI _ _ | .ret | .testRR _ _ | .testRI _ _ => []

/-- The instructions that write flags (10_state.md R29). -/
def writesFlags : Instr → Bool
  | .addRR _ _ | .addRI _ _ | .subRR _ _ | .subRI _ _ | .andRR _ _ | .andRI _ _ | .orRR _ _
  | .orRI _ _ | .xorRR _ _ | .xorRI _ _ | .cmpRR _ _ | .cmpRI _ _ | .shlRR _ _ | .shlRI _ _
  | .shrRR _ _ | .shrRI _ _ | .rolRR _ _ | .rolRI _ _ | .rclRR _ _ | .rclRI _ _ | .adcRR _ _
  | .adcRI _ _ | .sbbRR _ _ | .sbbRI _ _ | .testRR _ _ | .testRI _ _ | .sarRR _ _ | .sarRI _ _
  | .not _ | .neg _ => true
  | .pushR _ _ | .pushI _ _ | .pop _ _ | .movB0 _ | .movB1 _ | .movB2 _ | .movB3 _ | .movB4 _
  | .movB5 _ | .movB6 _ | .movB7 _ | .movRR _ _ | .movRI _ _ | .ldR _ _ | .ldA _ _ | .ldD _ _ _
  | .ldbR _ _ | .ldbA _ _ | .ldbD _ _ _ | .stR _ _ | .stA _ _ | .stD _ _ _ | .stbR _ _ | .stbA _ _
  | .stbD _ _ _ | .jmpR _ _ | .jmpI _ _ | .callR _ _ | .callI _ _ | .ret | .ldcp _ _ | .set _ _
  | .pushlr => false

/-- The instructions that access data memory (20_memory.md R56). -/
def accessesData : Instr → Bool
  | .pushR _ _ | .pushI _ _ | .pop _ _ | .ldR _ _ | .ldA _ _ | .ldD _ _ _ | .ldbR _ _ | .ldbA _ _
  | .ldbD _ _ _ | .stR _ _ | .stA _ _ | .stD _ _ _ | .stbR _ _ | .stbA _ _ | .stbD _ _ _ | .pushlr => true
  | .addRR _ _ | .addRI _ _ | .subRR _ _ | .subRI _ _ | .movB0 _ | .movB1 _ | .movB2 _ | .movB3 _
  | .movB4 _ | .movB5 _ | .movB6 _ | .movB7 _ | .movRR _ _ | .movRI _ _ | .andRR _ _ | .andRI _ _
  | .orRR _ _ | .orRI _ _ | .xorRR _ _ | .xorRI _ _ | .not _ | .neg _ | .cmpRR _ _ | .cmpRI _ _
  | .jmpR _ _ | .jmpI _ _ | .callR _ _ | .callI _ _ | .ret | .shlRR _ _ | .shlRI _ _ | .shrRR _ _
  | .shrRI _ _ | .rolRR _ _ | .rolRI _ _ | .rclRR _ _ | .rclRI _ _ | .ldcp _ _ | .adcRR _ _
  | .adcRI _ _ | .sbbRR _ _ | .sbbRI _ _ | .set _ _ | .testRR _ _ | .testRI _ _ | .sarRR _ _
  | .sarRI _ _ => false

/-- The address and size an instruction stores to, computed from the state before it (20_memory.md R56). -/
def storeTarget (s : State) : Instr → Option (Word × Size)
  | .stR _ rS => some (s.reg rS, .word)
  | .stA _ imm => some (imm, .word)
  | .stD _ rS imm => some (s.reg rS + imm, .word)
  | .stbR _ rS => some (s.reg rS, .byte)
  | .stbA _ imm => some (imm, .byte)
  | .stbD _ rS imm => some (s.reg rS + imm, .byte)
  | .pushR spn _ => some (s.reg (stackNumber s.cfg spn) - 2#16, .word)
  | .pushI spn _ => some (s.reg (stackNumber s.cfg spn) - 2#16, .word)
  | .pushlr => some (s.reg 7#3 - 2#16, .word)
  | .addRR _ _ | .addRI _ _ | .subRR _ _ | .subRI _ _ | .pop _ _ | .movB0 _ | .movB1 _ | .movB2 _
  | .movB3 _ | .movB4 _ | .movB5 _ | .movB6 _ | .movB7 _ | .movRR _ _ | .movRI _ _ | .andRR _ _
  | .andRI _ _ | .orRR _ _ | .orRI _ _ | .xorRR _ _ | .xorRI _ _ | .not _ | .neg _ | .ldR _ _
  | .ldA _ _ | .ldD _ _ _ | .ldbR _ _ | .ldbA _ _ | .ldbD _ _ _ | .cmpRR _ _ | .cmpRI _ _
  | .jmpR _ _ | .jmpI _ _ | .callR _ _ | .callI _ _ | .ret | .shlRR _ _ | .shlRI _ _ | .shrRR _ _
  | .shrRI _ _ | .rolRR _ _ | .rolRI _ _ | .rclRR _ _ | .rclRI _ _ | .ldcp _ _ | .adcRR _ _
  | .adcRI _ _ | .sbbRR _ _ | .sbbRI _ _ | .set _ _ | .testRR _ _ | .testRI _ _ | .sarRR _ _
  | .sarRI _ _ => none

/-- JMP, CALL and RET (10_state.md R23). -/
def transfersControl : Instr → Bool
  | .jmpR _ _ | .jmpI _ _ | .callR _ _ | .callI _ _ | .ret => true
  | .addRR _ _ | .addRI _ _ | .subRR _ _ | .subRI _ _ | .pushR _ _ | .pushI _ _ | .pop _ _
  | .movB0 _ | .movB1 _ | .movB2 _ | .movB3 _ | .movB4 _ | .movB5 _ | .movB6 _ | .movB7 _
  | .movRR _ _ | .movRI _ _ | .andRR _ _ | .andRI _ _ | .orRR _ _ | .orRI _ _ | .xorRR _ _
  | .xorRI _ _ | .not _ | .neg _ | .ldR _ _ | .ldA _ _ | .ldD _ _ _ | .ldbR _ _ | .ldbA _ _
  | .ldbD _ _ _ | .stR _ _ | .stA _ _ | .stD _ _ _ | .stbR _ _ | .stbA _ _ | .stbD _ _ _
  | .cmpRR _ _ | .cmpRI _ _ | .shlRR _ _ | .shlRI _ _ | .shrRR _ _ | .shrRI _ _ | .rolRR _ _
  | .rolRI _ _ | .rclRR _ _ | .rclRI _ _ | .ldcp _ _ | .adcRR _ _ | .adcRI _ _ | .sbbRR _ _
  | .sbbRI _ _ | .set _ _ | .testRR _ _ | .testRI _ _ | .pushlr | .sarRR _ _ | .sarRI _ _ => false

/-- The length of an instruction in bytes (30_encoding.md R80). -/
def byteLength : Instr → Nat
  | .addRR _ _ | .subRR _ _ | .pushR _ _ | .pop _ _ | .movB0 _ | .movB1 _ | .movB2 _ | .movB3 _
  | .movB4 _ | .movB5 _ | .movB6 _ | .movB7 _ | .movRR _ _ | .andRR _ _ | .orRR _ _ | .xorRR _ _
  | .not _ | .neg _ | .ldR _ _ | .ldbR _ _ | .stR _ _ | .stbR _ _ | .cmpRR _ _ | .jmpR _ _
  | .callR _ _ | .ret | .shlRR _ _ | .shrRR _ _ | .rolRR _ _ | .rclRR _ _ | .ldcp _ _ | .adcRR _ _
  | .sbbRR _ _ | .set _ _ | .testRR _ _ | .pushlr | .sarRR _ _ => 2
  | .addRI _ _ | .subRI _ _ | .pushI _ _ | .movRI _ _ | .andRI _ _ | .orRI _ _ | .xorRI _ _
  | .ldA _ _ | .ldD _ _ _ | .ldbA _ _ | .ldbD _ _ _ | .stA _ _ | .stD _ _ _ | .stbA _ _
  | .stbD _ _ _ | .cmpRI _ _ | .jmpI _ _ | .callI _ _ | .shlRI _ _ | .shrRI _ _ | .rolRI _ _
  | .rclRI _ _ | .adcRI _ _ | .sbbRI _ _ | .testRI _ _ | .sarRI _ _ => 4

/-! ## Forms -/

/-- `LoadsFrom s i n rD ea next`: in the state `s` the instruction `i` loads `n` bytes from `ea` into `rD`, and
`next` is its `next_pc` (44_load_store.md R170 to R172). -/
inductive LoadsFrom (s : State) : Instr → Size → Reg → Word → Word → Prop where
  | wordIndirect (rD rS : Reg) : LoadsFrom s (.ldR rD rS) .word rD (s.reg rS) (s.pc + 2#16)
  | wordAbsolute (rD : Reg) (imm : Word) : LoadsFrom s (.ldA rD imm) .word rD imm (s.pc + 4#16)
  | wordDisplaced (rD rS : Reg) (imm : Word) :
      LoadsFrom s (.ldD rD rS imm) .word rD (s.reg rS + imm) (s.pc + 4#16)
  | byteIndirect (rD rS : Reg) : LoadsFrom s (.ldbR rD rS) .byte rD (s.reg rS) (s.pc + 2#16)
  | byteAbsolute (rD : Reg) (imm : Word) : LoadsFrom s (.ldbA rD imm) .byte rD imm (s.pc + 4#16)
  | byteDisplaced (rD rS : Reg) (imm : Word) :
      LoadsFrom s (.ldbD rD rS imm) .byte rD (s.reg rS + imm) (s.pc + 4#16)

/-- `StoresTo s i n rD ea next`: in the state `s` the instruction `i` stores `n` bytes of `rD` at `ea`, and `next`
is its `next_pc` (44_load_store.md R170, R173, R174). -/
inductive StoresTo (s : State) : Instr → Size → Reg → Word → Word → Prop where
  | wordIndirect (rD rS : Reg) : StoresTo s (.stR rD rS) .word rD (s.reg rS) (s.pc + 2#16)
  | wordAbsolute (rD : Reg) (imm : Word) : StoresTo s (.stA rD imm) .word rD imm (s.pc + 4#16)
  | wordDisplaced (rD rS : Reg) (imm : Word) :
      StoresTo s (.stD rD rS imm) .word rD (s.reg rS + imm) (s.pc + 4#16)
  | byteIndirect (rD rS : Reg) : StoresTo s (.stbR rD rS) .byte rD (s.reg rS) (s.pc + 2#16)
  | byteAbsolute (rD : Reg) (imm : Word) : StoresTo s (.stbA rD imm) .byte rD imm (s.pc + 4#16)
  | byteDisplaced (rD rS : Reg) (imm : Word) :
      StoresTo s (.stbD rD rS imm) .byte rD (s.reg rS + imm) (s.pc + 4#16)

/-- `Pushes s i sp v next`: in the state `s` the instruction `i` pushes `v` on the stack of register `sp`
(41_stack.md R141, R143). -/
inductive Pushes (s : State) : Instr → Reg → Word → Word → Prop where
  | register (spn rD : Reg) (h : rD ≠ stackNumber s.cfg spn) :
      Pushes s (.pushR spn rD) (stackNumber s.cfg spn) (s.reg rD) (s.pc + 2#16)
  | immediate (spn : Reg) (imm : Word) :
      Pushes s (.pushI spn imm) (stackNumber s.cfg spn) imm (s.pc + 4#16)
  | link : Pushes s .pushlr 7#3 s.lr (s.pc + 2#16)

/-- The five shifts and rotates (46_shift_rotate.md R201 to R205). -/
inductive ShiftKind where
  | shl | shr | sar | rol | rcl
deriving DecidableEq, Repr

/-- `Shifts s i k rD n next`: in the state `s` the instruction `i` shifts or rotates `rD` by the operand `n`. -/
inductive Shifts (s : State) : Instr → ShiftKind → Reg → Word → Word → Prop where
  | shlRR (rD rS : Reg) : Shifts s (.shlRR rD rS) .shl rD (s.reg rS) (s.pc + 2#16)
  | shlRI (rD : Reg) (imm : Word) : Shifts s (.shlRI rD imm) .shl rD imm (s.pc + 4#16)
  | shrRR (rD rS : Reg) : Shifts s (.shrRR rD rS) .shr rD (s.reg rS) (s.pc + 2#16)
  | shrRI (rD : Reg) (imm : Word) : Shifts s (.shrRI rD imm) .shr rD imm (s.pc + 4#16)
  | sarRR (rD rS : Reg) : Shifts s (.sarRR rD rS) .sar rD (s.reg rS) (s.pc + 2#16)
  | sarRI (rD : Reg) (imm : Word) : Shifts s (.sarRI rD imm) .sar rD imm (s.pc + 4#16)
  | rolRR (rD rS : Reg) : Shifts s (.rolRR rD rS) .rol rD (s.reg rS) (s.pc + 2#16)
  | rolRI (rD : Reg) (imm : Word) : Shifts s (.rolRI rD imm) .rol rD imm (s.pc + 4#16)
  | rclRR (rD rS : Reg) : Shifts s (.rclRR rD rS) .rcl rD (s.reg rS) (s.pc + 2#16)
  | rclRI (rD : Reg) (imm : Word) : Shifts s (.rclRI rD imm) .rcl rD imm (s.pc + 4#16)

/-- `Compares s i rD b`: in the state `s` the instruction `i` is a CMP or SUB of `rD` and the operand value `b`. -/
inductive Compares (s : State) : Instr → Reg → Word → Prop where
  | cmpRR (rD rS : Reg) : Compares s (.cmpRR rD rS) rD (s.reg rS)
  | cmpRI (rD : Reg) (imm : Word) : Compares s (.cmpRI rD imm) rD imm
  | subRR (rD rS : Reg) : Compares s (.subRR rD rS) rD (s.reg rS)
  | subRI (rD : Reg) (imm : Word) : Compares s (.subRI rD imm) rD imm

/-- `Jumps s i cond target next`: `i` is a JMP on `cond` to `target`. -/
inductive Jumps (s : State) : Instr → Cond → Word → Word → Prop where
  | register (cond : Cond) (rD : Reg) : Jumps s (.jmpR cond rD) cond (s.reg rD) (s.pc + 2#16)
  | immediate (cond : Cond) (imm : Word) : Jumps s (.jmpI cond imm) cond imm (s.pc + 4#16)

/-- `Calls s i cond target next`: `i` is a CALL on `cond` of `target`. -/
inductive Calls (s : State) : Instr → Cond → Word → Word → Prop where
  | register (cond : Cond) (rD : Reg) : Calls s (.callR cond rD) cond (s.reg rD) (s.pc + 2#16)
  | immediate (cond : Cond) (imm : Word) : Calls s (.callI cond imm) cond imm (s.pc + 4#16)

/-! ## Results, by the spec's formulas on unbounded integers -/

/-- An exact signed result does not fit 16 bits (10_state.md R28). -/
def outOfRangeBit (x : Int) : Bool := decide (x < -32768) || decide (32767 < x)

/-- The flags of `a + b + cin` (40_arithmetic.md R121, R125; 10_state.md R26 to R28). -/
def sumFlags (rule : OverflowRule) (a b : Word) (cin : Nat) : Flags where
  z := decide ((a.toNat + b.toNat + cin) % 65536 = 0)
  c := decide (65535 < a.toNat + b.toNat + cin)
  s := decide (32768 ≤ (a.toNat + b.toNat + cin) % 65536)
  v := match rule with
    | .signedOverflow => outOfRangeBit (a.toInt + b.toInt + cin)
    | .oneSided => decide (32768 ≤ a.toNat % 32768 + b.toNat % 32768 + cin)
        && decide (a.toNat + b.toNat + cin < 65536)

/-- The flags of `a - b - cin`, V by the exact signed result (40_arithmetic.md R122 to R126; 10_state.md
R26 to R28). -/
def differenceFlags (polarity : CarryPolarity) (a b : Word) (cin : Nat) : Flags where
  z := decide (((a.toNat : Int) - b.toNat - cin) % 65536 = 0)
  c := match polarity with
    | .borrow => decide ((a.toNat : Int) - b.toNat - cin < 0)
    | .notBorrow => decide (0 ≤ (a.toNat : Int) - b.toNat - cin)
  s := decide (32768 ≤ ((a.toNat : Int) - b.toNat - cin) % 65536)
  v := outOfRangeBit (a.toInt - b.toInt - cin)

/-- Z and S of a 16 bit result by rule R26, with the given C, and V cleared. -/
def clearedFlags (res : Nat) (c : Bool) : Flags where
  z := decide (res = 0)
  c := c
  s := decide (32768 ≤ res)
  v := false

/-- The state after `rD <- rD + b + cin` with flags. -/
def added (s : State) (rD : Reg) (b : Word) (cin : Nat) (next : Word) : State :=
  ((s.setReg rD (BitVec.ofNat 16 ((s.reg rD).toNat + b.toNat + cin))).setFlags
    (sumFlags s.cfg.vRule (s.reg rD) b cin)).setPc next

/-- The state after `rD <- a - b - cin` with flags. -/
def subtracted (s : State) (rD : Reg) (a b : Word) (cin : Nat) (next : Word) : State :=
  ((s.setReg rD (BitVec.ofInt 16 ((a.toNat : Int) - b.toNat - cin))).setFlags
    (differenceFlags s.cfg.subCarry a b cin)).setPc next

/-- The formulas of R201 to R203 and R205 for a count `n` below 16, as numbers below 65536. -/
def shiftedValue (k : ShiftKind) (c : Bool) (a : Word) (n : Nat) : Nat :=
  match k with
  | .shl => a.toNat * 2 ^ n % 65536
  | .shr => a.toNat / 2 ^ n
  | .sar => (a.toInt / 2 ^ n % 65536).toNat
  | .rol => a.toNat * 2 ^ n % 65536 + a.toNat / 2 ^ (16 - n)
  | .rcl => ((c.toNat * 65536 + a.toNat) * 2 ^ n % 131072 + (c.toNat * 65536 + a.toNat) / 2 ^ (17 - n)) % 65536

/-- The formula of R204 for the carry of RCL; ROL clears C (R203); after SHL, SHR, SAR it is a free value of
the draw (R207). -/
def shiftedCarry (k : ShiftKind) (c : Bool) (a : Word) (n draw : Nat) : Bool :=
  match k with
  | .shl => Config.shiftCarry draw
  | .shr => Config.shiftCarry draw
  | .sar => Config.shiftCarry draw
  | .rol => false
  | .rcl => decide (65536 ≤ (c.toNat * 65536 + a.toNat) * 2 ^ n % 131072 + (c.toNat * 65536 + a.toNat) / 2 ^ (17 - n))

/-- How many free values a shift draws. -/
def shiftDraws (k : ShiftKind) : Nat :=
  match k with
  | .shl => 1
  | .shr => 1
  | .sar => 1
  | .rol => 0
  | .rcl => 0

/-- The state after a shift or rotate of `rD` whose result is the number `res`. -/
def shifted (s : State) (k : ShiftKind) (rD : Reg) (res : Nat) (c : Bool) (next : Word) : State :=
  { ((s.setReg rD (BitVec.ofNat 16 res)).setFlags (clearedFlags res c)).setPc next with
    draws := s.draws + shiftDraws k }

/-- What LD.b leaves in `rD` (44_load_store.md R172). -/
def extended (e : Extension) (b : Byte) : Word :=
  match e with
  | .zero => BitVec.ofNat 16 b.toNat
  | .sign => BitVec.ofInt 16 b.toInt

/-- The Expression column of the condition table, on the flags (45_control.md R180). -/
def printedCondition (f : Flags) : Cond → Prop
  | .nv => False
  | .eq => f.z = true
  | .ne => f.z = false
  | .os => f.v = true
  | .oc => f.v = false
  | .hi => f.c = true ∧ f.z = false
  | .ls => f.c = false ∧ f.z = true
  | .p => f.s = false
  | .n => f.s = true
  | .cs => f.c = true
  | .cc => f.c = false
  | .ge => f.s = f.v
  | .g => f.s = f.v ∧ f.z = false
  | .le => f.z = true ∨ f.s ≠ f.v
  | .l => f.s ≠ f.v
  | .al => True

/-- The addresses and sizes of the peripheral register map (60_exceptions.md R240). -/
def registerMap : List (Nat × Size) :=
  [(0xFF00, .byte), (0xFF02, .byte), (0xFF03, .byte), (0xFF04, .word), (0xFF06, .word), (0xFF08, .word),
   (0xFF0A, .word), (0xFF0C, .word), (0xFF0E, .word), (0xFF10, .word)]

/-- The words of an instruction as the one number of `State.withFetchWord`. -/
def wordsAsNumber (i : Instr) : Nat :=
  (encodeHead i).toNat + 65536 * ((encodeImm i).getD 0#16).toNat

end Sys2Proof.Claims
end

