-- ==== Sys2Proof/Certificates/Slice0/Obligations.lean ====
section
/-! DEFINITION. The statements for the provers, in the order of OBLIGATIONS.json. Each docstring names the rules of
spec/ it formalises; Sys2Proof/Safety.lean holds the tables and formulas they speak of. -/

open Sys2Proof
open Sys2Proof.Machine
open Sys2Proof.Claims

/-! ## Encoding and decoding -/

/-- R80 to R97, R54: the bytes of every instruction, in either byte order, decode to that instruction, and the bytes
after it are left over. -/
def Obligations.DecodeOfEncodeIsTheInstruction : Prop :=
  ∀ (o : ByteOrder) (i : Instr) (rest : List Byte),
    decodeBytes o (encodeBytes o i ++ rest) = .ok (i, rest)

/-- R95, R96, R97: a word that decodes to an instruction is the instruction's own encoding, so no two words with the
same immediate mean the same. -/
def Obligations.EncodeOfDecodeIsTheWord : Prop :=
  ∀ (w imm : Word) (i : Instr), decode w imm = .ok i →
    encode i = if w.toNat < 32768 then [w] else [w, imm]

/-- R82, R86, R87, R88, R89, R90, R91: words written out bit by bit from the formats, one for each family. -/
def Obligations.WordsOfEachFormatDecode : Prop :=
  decode 0b0000000100010001#16 0#16 = .ok (.addRR 1#3 2#3) ∧
  decode 0b1000001000000101#16 0xBEEF#16 = .ok (.subRI 5#3 0xBEEF#16) ∧
  decode 0b0000001100001000#16 0#16 = .ok (.pushR 1#3 0#3) ∧
  decode 0b0000011111111110#16 0#16 = .ok (.movB2 0xFE#8) ∧
  decode 0b0001000100000101#16 0#16 = .ok (.not 5#3) ∧
  decode 0b1001001111010001#16 0x0004#16 = .ok (.ldbD 1#3 2#3 0x0004#16) ∧
  decode 0b1001010000000011#16 0xFF08#16 = .ok (.stA 3#3 0xFF08#16) ∧
  decode 0b0001011001111001#16 0#16 = .ok (.jmpR .al 1#3) ∧
  decode 0b1001011100111000#16 0x0100#16 = .ok (.callI .p 0x0100#16) ∧
  decode 0b0010010000110100#16 0#16 = .ok (.sarRR 4#3 6#3) ∧
  decode 0b0001110100101001#16 0#16 = .ok (.ldcp 1#3 5#4) ∧
  decode 0b0001100000000000#16 0#16 = .ok .ret ∧
  decode 0b0010001100000000#16 0#16 = .ok .pushlr

/-- R100, R101: a word is an illegal instruction exactly when its opcode number is 0, 30 or 37 to 127, and a displacement
without an immediate exactly when it is one of the words the rule lists. Both are model faults the spec decided on
(92_eei_decisions.md D17, D19; notes/assumptions 25, 27). -/
def Obligations.UnassignedOpcodesAndLoneDisplacementsAreRejected : Prop :=
  ∀ w imm : Word,
    (decode w imm = .error (.illegalInstruction w) ↔
      (w.toNat / 256 % 128 = 0 ∨ w.toNat / 256 % 128 = 30 ∨ 37 ≤ w.toNat / 256 % 128)) ∧
    (decode w imm = .error (.undefinedDispWithoutImm w) ↔
      ((0x1340 ≤ w.toNat ∧ w.toNat ≤ 0x137F) ∨ (0x13C0 ≤ w.toNat ∧ w.toNat ≤ 0x13FF) ∨
        (0x1440 ≤ w.toNat ∧ w.toNat ≤ 0x147F) ∨ (0x14C0 ≤ w.toNat ∧ w.toNat ≤ 0x14FF)))

/-- R99: the immediate flag on POP (opcode 4), NOT (17), NEG (18), SET (33), RET (24), PUSHLR (35), LDCP (29) and the
byte MOV (5 to 12) is a reserved encoding. R96, R97, R98: a reserved field that is not zero (bits 7:6 of formats RR, RI, S and U, bit 7 of formats C and P, the
operand byte of format Z) and an unused register field that is not zero (bits 5:3 of formats RI and U and of an
absolute LD or ST, bits 2:0 of PUSH, JMP, CALL with an immediate) is a reserved encoding. -/
def Obligations.ReservedEncodingsAreRejected : Prop :=
  ∀ w imm : Word,
    (32768 ≤ w.toNat → w.toNat / 256 % 128 ∈ [4, 17, 18, 33, 24, 35, 29, 5, 6, 7, 8, 9, 10, 11, 12] →
      decode w imm = .error (.reservedEncoding w)) ∧
    (w.toNat / 256 % 128 ∈ [1, 2, 3, 4, 13, 14, 15, 16, 17, 18, 21, 25, 26, 27, 28, 31, 32, 34, 36] →
      w.toNat / 64 % 4 ≠ 0 → decode w imm = .error (.reservedEncoding w)) ∧
    (w.toNat / 256 % 128 ∈ [22, 23, 29, 33] → w.toNat / 128 % 2 ≠ 0 →
      decode w imm = .error (.reservedEncoding w)) ∧
    (w.toNat / 256 % 128 ∈ [24, 35] → w.toNat % 256 ≠ 0 → decode w imm = .error (.reservedEncoding w)) ∧
    (w.toNat / 256 % 128 ∈ [17, 18] → w.toNat / 8 % 8 ≠ 0 → decode w imm = .error (.reservedEncoding w)) ∧
    (32768 ≤ w.toNat → w.toNat / 256 % 128 ∈ [1, 2, 13, 14, 15, 16, 21, 25, 26, 27, 28, 31, 32, 34, 36] →
      w.toNat / 8 % 8 ≠ 0 → decode w imm = .error (.reservedEncoding w)) ∧
    (32768 ≤ w.toNat → w.toNat / 256 % 128 ∈ [19, 20] → w.toNat / 64 % 2 = 0 → w.toNat / 8 % 8 ≠ 0 →
      decode w imm = .error (.reservedEncoding w)) ∧
    (32768 ≤ w.toNat → w.toNat / 256 % 128 ∈ [3, 22, 23] → w.toNat % 8 ≠ 0 →
      decode w imm = .error (.reservedEncoding w))

/-! ## Fetch and step -/

/-- R20, R60, R96: when the bytes at `pc` decode to an instruction, the core's step is `exec` of it at that state; a
listed core turn is taken off the list first, and with no turn left a new round of turns begins (notes/assumptions 10). -/
def Obligations.StepRunsDecodedInstruction : Prop :=
  ∀ (s : State) (i : Instr), Fetchable s s.pc →
    (immFlag (s.ramWord s.pc) = true → Fetchable s (s.pc + 2#16)) →
    decode (s.ramWord s.pc) (s.ramWord (s.pc + 2#16)) = .ok i →
    (s.sched = [] → step s = exec i s.newRound) ∧
    (∀ rest, s.sched = .core :: rest → step s = exec i (s.setSched rest))

/-- R60, R96, R234: what a step of the core answers when its fetch or decoding fails, in the order of the checks. -/
def Obligations.FetchAndDecodeFaultsInOrder : Prop :=
  ∀ s : State, CoreTurn s →
    (s.pc.toNat % 2 = 1 → step s = .fault (.misalignedAccess s.pc)) ∧
    (s.pc.toNat % 2 = 0 → 0xFF00 ≤ s.pc.toNat → step s = .fault (.fetchFromPeripheral s.pc)) ∧
    (s.pc.toNat % 2 = 0 → s.pc.toNat < 0xFF00 → s.cfg.ramLimit.toNat ≤ s.pc.toNat →
      step s = .fault (.unbackedAccess s.pc)) ∧
    (Fetchable s s.pc → ∀ w, decode (s.ramWord s.pc) 0#16 = .error (.illegalInstruction w) →
      step s = .fault (.illegalInstruction (s.ramWord s.pc))) ∧
    (Fetchable s s.pc → ∀ w, decode (s.ramWord s.pc) 0#16 = .error (.reservedEncoding w) →
      step s = .fault (.reservedEncoding (s.ramWord s.pc))) ∧
    (Fetchable s s.pc → ∀ w, decode (s.ramWord s.pc) 0#16 = .error (.undefinedDispWithoutImm w) →
      step s = .fault (.undefinedDispWithoutImm (s.ramWord s.pc))) ∧
    (Fetchable s s.pc → immFlag (s.ramWord s.pc) = true → ∀ i, decode (s.ramWord s.pc) 0#16 = .ok i →
      (0xFF00 ≤ (s.pc + 2#16).toNat → step s = .fault (.fetchFromPeripheral (s.pc + 2#16))) ∧
      ((s.pc + 2#16).toNat < 0xFF00 → s.cfg.ramLimit.toNat ≤ (s.pc + 2#16).toNat →
        step s = .fault (.unbackedAccess (s.pc + 2#16))))

/-- R54, R60, R65: an instruction stored in RAM at `pc` is the one the next step of the core runs: a fetch sees the
stored words under either byte order. -/
def Obligations.StoredInstructionIsFetchedAndRun : Prop :=
  ∀ (s : State) (i : Instr), s.pc.toNat % 2 = 0 → s.pc.toNat + 3 < 0xFF00 → s.pc.toNat + 3 < s.cfg.ramLimit.toNat →
    step (s.withFetchWord 32 (wordsAsNumber i)) = exec i ((s.withFetchWord 32 (wordsAsNumber i)).setSched s.sched)

/-- R233, R253: a turn of another agent always completes, is taken off the list, and leaves the core's registers,
`pc`, `LR`, the flags, the LED latch, the sound divisors and the parameters as they were. -/
def Obligations.AgentTurnsLeaveTheCoreAlone : Prop :=
  ∀ (s : State) (t : Turn) (rest : List Turn), t ≠ .core → s.sched = t :: rest →
    ∃ u, step s = .next u ∧ u.sched = rest ∧ u.regs = s.regs ∧ u.pc = s.pc ∧ u.lr = s.lr ∧ u.flags = s.flags ∧
      u.led = s.led ∧ u.voices = s.voices ∧ u.cfg = s.cfg

/-! ## Memory -/

/-- R21: a register reads back what was written to it, and no other register changes. -/
def Obligations.RegisterReadsBackWhatWasWritten : Prop :=
  ∀ (s : State) (r q : Reg) (v : Word), (s.setReg r v).reg q = if q = r then v else s.reg q

/-- R53, R54: after a word is written to RAM, `MemRead` of the word gives it back and the reads of its two bytes give
its halves in the byte order, and every other byte of RAM reads as before. -/
def Obligations.WrittenWordReadsBackInEitherWidth : Prop :=
  ∀ (s : State) (a v : Word), InRam s a .word →
    ∃ t, memWrite s a .word v = .next t ∧
      memRead t a .word = .next (v, t) ∧
      (s.cfg.byteOrder = .little → (t.ramByte a).toNat = v.toNat % 256 ∧ (t.ramByte (a + 1#16)).toNat = v.toNat / 256) ∧
      (s.cfg.byteOrder = .big → (t.ramByte a).toNat = v.toNat / 256 ∧ (t.ramByte (a + 1#16)).toNat = v.toNat % 256) ∧
      ∀ b, ¬ Within a .word b → t.ramByte b = s.ramByte b

/-- R55: a word access at an odd address faults, whatever is there: LD, ST, PUSH, POP, PUSHLR. R58: an access that is
aligned and at or above RAM_LIMIT and below 0xFF00 faults. -/
def Obligations.OddAndUnbackedAccessesFault : Prop :=
  ∀ s : State,
    (∀ i rD ea next, LoadsFrom s i .word rD ea next → ea.toNat % 2 = 1 → exec i s = .fault (.misalignedAccess ea)) ∧
    (∀ i rD ea next, StoresTo s i .word rD ea next → ea.toNat % 2 = 1 → exec i s = .fault (.misalignedAccess ea)) ∧
    (∀ i sp v next, Pushes s i sp v next → (s.reg sp).toNat % 2 = 1 →
      exec i s = .fault (.misalignedAccess (s.reg sp - 2#16))) ∧
    (∀ spn rD, rD ≠ stackNumber s.cfg spn → (s.reg (stackNumber s.cfg spn)).toNat % 2 = 1 →
      exec (.pop spn rD) s = .fault (.misalignedAccess (s.reg (stackNumber s.cfg spn)))) ∧
    ∀ (n : Size) (ea : Word), (n = .word → ea.toNat % 2 = 0) → s.cfg.ramLimit.toNat ≤ ea.toNat → ea.toNat < 0xFF00 →
      (∀ i rD next, LoadsFrom s i n rD ea next → exec i s = .fault (.unbackedAccess ea)) ∧
      (∀ i rD next, StoresTo s i n rD ea next → exec i s = .fault (.unbackedAccess ea)) ∧
      (∀ i sp v next, n = .word → Pushes s i sp v next → ea = s.reg sp - 2#16 →
        exec i s = .fault (.unbackedAccess ea)) ∧
      (∀ spn rD, n = .word → rD ≠ stackNumber s.cfg spn → ea = s.reg (stackNumber s.cfg spn) →
        exec (.pop spn rD) s = .fault (.unbackedAccess ea))

/-- R57, R241, R242: an aligned access in the peripheral region that is not a listed register at its own address and size
faults, by `UnmappedPeripheral` at 0xFF01 and from 0xFF12 on, else by `PeripheralAccessSize`. -/
def Obligations.PeripheralSizeAndPlaceAreChecked : Prop :=
  ∀ (s : State) (n : Size) (ea : Word), (n = .word → ea.toNat % 2 = 0) → 0xFF00 ≤ ea.toNat →
    (ea.toNat, n) ∉ registerMap →
    (∀ v, memRead s ea n =
        .fault (if ea.toNat = 0xFF01 ∨ 0xFF12 ≤ ea.toNat then .unmappedPeripheral ea else .peripheralAccessSize ea n) ∧
      memWrite s ea n v =
        .fault (if ea.toNat = 0xFF01 ∨ 0xFF12 ≤ ea.toNat then .unmappedPeripheral ea else .peripheralAccessSize ea n))

/-- R247, R248, R254, R261, R262, R263: a load from a write-only register, and a store to the read-only IO_UART_STATUS,
fault. -/
def Obligations.PeripheralAccessTypeIsChecked : Prop :=
  ∀ s : State,
    (∀ i rD ea next, LoadsFrom s i .word rD ea next → ea ∈ [0xFF04#16, 0xFF08#16, 0xFF0C#16, 0xFF0E#16, 0xFF10#16] →
      exec i s = .fault (.peripheralAccessType ea .read)) ∧
    (∀ i rD next, StoresTo s i .byte rD 0xFF03#16 next →
      exec i s = .fault (.peripheralAccessType 0xFF03#16 .write))

/-! ## Arithmetic -/

/-- R121, R125 with R26, R27, R28: ADD and ADC, both forms: the sum mod 65536 in `rD`, all four flags, `pc` past the
instruction, and nothing else. -/
def Obligations.AddAndAdcWriteTheSum : Prop :=
  ∀ (s : State) (rD rS : Reg) (imm : Word),
    exec (.addRR rD rS) s = .next (added s rD (s.reg rS) 0 (s.pc + 2#16)) ∧
    exec (.addRI rD imm) s = .next (added s rD imm 0 (s.pc + 4#16)) ∧
    exec (.adcRR rD rS) s = .next (added s rD (s.reg rS) s.flags.c.toNat (s.pc + 2#16)) ∧
    exec (.adcRI rD imm) s = .next (added s rD imm s.flags.c.toNat (s.pc + 4#16))

/-- R122, R123, R124, R126 with R26, R27, R28: SUB, SBB, NEG and CMP, all forms, under V_RULE = signed_overflow and either
SUB_CARRY_POLARITY; CMP writes no register. -/
def Obligations.SubtractionsWriteTheDifference : Prop :=
  ∀ (s : State) (rD rS : Reg) (imm : Word), s.cfg.vRule = .signedOverflow →
    exec (.subRR rD rS) s = .next (subtracted s rD (s.reg rD) (s.reg rS) 0 (s.pc + 2#16)) ∧
    exec (.subRI rD imm) s = .next (subtracted s rD (s.reg rD) imm 0 (s.pc + 4#16)) ∧
    exec (.sbbRR rD rS) s = .next (subtracted s rD (s.reg rD) (s.reg rS) s.flags.c.toNat (s.pc + 2#16)) ∧
    exec (.sbbRI rD imm) s = .next (subtracted s rD (s.reg rD) imm s.flags.c.toNat (s.pc + 4#16)) ∧
    exec (.neg rD) s = .next (subtracted s rD 0#16 (s.reg rD) 0 (s.pc + 2#16)) ∧
    exec (.cmpRR rD rS) s =
      .next ((s.setFlags (differenceFlags s.cfg.subCarry (s.reg rD) (s.reg rS) 0)).setPc (s.pc + 2#16)) ∧
    exec (.cmpRI rD imm) s =
      .next ((s.setFlags (differenceFlags s.cfg.subCarry (s.reg rD) imm 0)).setPc (s.pc + 4#16))

/-- R127 with R28: the bit formulas for V agree with the exact signed result for every operand pair and carry. -/
def Obligations.OverflowBitFormulasAreExact : Prop :=
  ∀ (a b : Word) (cin : Bool),
    (addOverflow a b (sumWord a b cin) = true ↔
      (a.toInt + b.toInt + cin.toNat < -32768 ∨ 32767 < a.toInt + b.toInt + cin.toNat)) ∧
    (subOverflow a b (diffWord a b cin) = true ↔
      (a.toInt - b.toInt - cin.toNat < -32768 ∨ 32767 < a.toInt - b.toInt - cin.toNat))

/-- R181: what the conditions say after CMP or SUB of `a` and `b` under the printed table and V_RULE = signed_overflow,
with C as a borrow, and with C as its complement. -/
def Obligations.ConditionsAfterCompare : Prop :=
  ∀ (s t : State) (i : Instr) (rD : Reg) (b : Word), Compares s i rD b →
    s.cfg.condTable = Config.printedCondTable → s.cfg.vRule = .signedOverflow → exec i s = .next t →
    (t.holds .eq = true ↔ s.reg rD = b) ∧ (t.holds .ne = true ↔ s.reg rD ≠ b) ∧
    (t.holds .ge = true ↔ b.toInt ≤ (s.reg rD).toInt) ∧ (t.holds .l = true ↔ (s.reg rD).toInt < b.toInt) ∧
    (t.holds .g = true ↔ b.toInt < (s.reg rD).toInt) ∧ (t.holds .le = true ↔ (s.reg rD).toInt ≤ b.toInt) ∧
    (t.holds .p = true ↔ (s.reg rD - b).getLsbD 15 = false) ∧ (t.holds .n = true ↔ (s.reg rD - b).getLsbD 15 = true) ∧
    (t.holds .os = true ↔
      ((s.reg rD).toInt - b.toInt < -32768 ∨ 32767 < (s.reg rD).toInt - b.toInt)) ∧
    (t.holds .oc = true ↔
      ¬ ((s.reg rD).toInt - b.toInt < -32768 ∨ 32767 < (s.reg rD).toInt - b.toInt)) ∧
    (s.cfg.subCarry = .borrow →
      (t.holds .cs = true ↔ (s.reg rD).toNat < b.toNat) ∧ (t.holds .cc = true ↔ b.toNat ≤ (s.reg rD).toNat) ∧
      (t.holds .hi = true ↔ (s.reg rD).toNat < b.toNat) ∧ (t.holds .ls = true ↔ s.reg rD = b)) ∧
    (s.cfg.subCarry = .notBorrow →
      (t.holds .cs = true ↔ b.toNat ≤ (s.reg rD).toNat) ∧ (t.holds .cc = true ↔ (s.reg rD).toNat < b.toNat) ∧
      (t.holds .hi = true ↔ b.toNat < (s.reg rD).toNat) ∧ t.holds .ls = false)

/-- The model's choice (notes/assumptions 13; 95_test_vectors.md 3.1 names no subtraction row that V_RULE changes): under
V_RULE = one_sided SUB, SBB, NEG and CMP, all forms, complete with the whole state they leave under signed_overflow. -/
def Obligations.OneSidedRuleLeavesSubtractionAlone : Prop :=
  ∀ (s : State) (rD rS : Reg) (imm : Word), s.cfg.vRule = .oneSided →
    let compared (b next : Word) : State :=
      (s.setFlags (differenceFlags s.cfg.subCarry (s.reg rD) b 0)).setPc next
    exec (.subRR rD rS) s = .next (subtracted s rD (s.reg rD) (s.reg rS) 0 (s.pc + 2#16)) ∧
    exec (.subRI rD imm) s = .next (subtracted s rD (s.reg rD) imm 0 (s.pc + 4#16)) ∧
    exec (.sbbRR rD rS) s = .next (subtracted s rD (s.reg rD) (s.reg rS) s.flags.c.toNat (s.pc + 2#16)) ∧
    exec (.sbbRI rD imm) s = .next (subtracted s rD (s.reg rD) imm s.flags.c.toNat (s.pc + 4#16)) ∧
    exec (.neg rD) s = .next (subtracted s rD 0#16 (s.reg rD) 0 (s.pc + 2#16)) ∧
    exec (.cmpRR rD rS) s = .next (compared (s.reg rS) (s.pc + 2#16)) ∧
    exec (.cmpRI rD imm) s = .next (compared imm (s.pc + 4#16))

/-! ## Logic and moves -/

/-- R161 to R164: AND, OR, XOR and NOT, all forms: the result in `rD`, Z and S from it, C and V cleared. -/
def Obligations.LogicWritesTheResultAndClearsCarry : Prop :=
  ∀ (s : State) (rD rS : Reg) (imm : Word),
    let result (r : Word) (next : Word) : State :=
      ((s.setReg rD r).setFlags (clearedFlags r.toNat false)).setPc next
    exec (.andRR rD rS) s = .next (result (s.reg rD &&& s.reg rS) (s.pc + 2#16)) ∧
    exec (.andRI rD imm) s = .next (result (s.reg rD &&& imm) (s.pc + 4#16)) ∧
    exec (.orRR rD rS) s = .next (result (s.reg rD ||| s.reg rS) (s.pc + 2#16)) ∧
    exec (.orRI rD imm) s = .next (result (s.reg rD ||| imm) (s.pc + 4#16)) ∧
    exec (.xorRR rD rS) s = .next (result (s.reg rD ^^^ s.reg rS) (s.pc + 2#16)) ∧
    exec (.xorRI rD imm) s = .next (result (s.reg rD ^^^ imm) (s.pc + 4#16)) ∧
    exec (.not rD) s = .next (result (BitVec.ofNat 16 (65535 - (s.reg rD).toNat)) (s.pc + 2#16))

/-- R165 with R160 (C and V after TEST are the spec's own choice, 92_eei_decisions.md D9; notes/assumptions 31): TEST, both
forms: Z and S from the bitwise and, C and V cleared, as AND leaves them; no register is written. -/
def Obligations.TestSetsTheFlagsOfAnd : Prop :=
  ∀ (s : State) (rD rS : Reg) (imm : Word),
    exec (.testRR rD rS) s =
      .next ((s.setFlags (clearedFlags (s.reg rD &&& s.reg rS).toNat false)).setPc (s.pc + 2#16)) ∧
    exec (.testRI rD imm) s =
      .next ((s.setFlags (clearedFlags (s.reg rD &&& imm).toNat false)).setPc (s.pc + 4#16)) ∧
    ∀ t, exec (.andRI rD imm) s = .next t → exec (.testRI rD imm) s = .next { t with regs := s.regs }

/-- R150, R151: both encodings of MOV: the value in `rD`, the byte immediate extended with zeros; no flag changes. -/
def Obligations.MovWritesTheOperand : Prop :=
  ∀ (s : State) (rD rS : Reg) (imm : Word) (k : Byte),
    exec (.movRR rD rS) s = .next ((s.setReg rD (s.reg rS)).setPc (s.pc + 2#16)) ∧
    exec (.movRI rD imm) s = .next ((s.setReg rD imm).setPc (s.pc + 4#16)) ∧
    exec (.movB0 k) s = .next ((s.setReg 0#3 (BitVec.ofNat 16 k.toNat)).setPc (s.pc + 2#16)) ∧
    exec (.movB1 k) s = .next ((s.setReg 1#3 (BitVec.ofNat 16 k.toNat)).setPc (s.pc + 2#16)) ∧
    exec (.movB2 k) s = .next ((s.setReg 2#3 (BitVec.ofNat 16 k.toNat)).setPc (s.pc + 2#16)) ∧
    exec (.movB3 k) s = .next ((s.setReg 3#3 (BitVec.ofNat 16 k.toNat)).setPc (s.pc + 2#16)) ∧
    exec (.movB4 k) s = .next ((s.setReg 4#3 (BitVec.ofNat 16 k.toNat)).setPc (s.pc + 2#16)) ∧
    exec (.movB5 k) s = .next ((s.setReg 5#3 (BitVec.ofNat 16 k.toNat)).setPc (s.pc + 2#16)) ∧
    exec (.movB6 k) s = .next ((s.setReg 6#3 (BitVec.ofNat 16 k.toNat)).setPc (s.pc + 2#16)) ∧
    exec (.movB7 k) s = .next ((s.setReg 7#3 (BitVec.ofNat 16 k.toNat)).setPc (s.pc + 2#16))

/-- R152: any word whose upper byte is `5 + rD` and whose lower byte is `k` does what the general encoding of
`MOV rD, k` does, but for `next_pc`. -/
def Obligations.MovEncodingsAgree : Prop :=
  ∀ (s : State) (rD : Reg) (k : Byte) (i : Instr) (t : State),
    decode (BitVec.ofNat 16 ((5 + rD.toNat) * 256 + k.toNat)) 0#16 = .ok i →
    exec (.movRI rD (BitVec.ofNat 16 k.toNat)) s = .next t →
    exec i s = .next (t.setPc (s.pc + 2#16))

/-! ## Shifts and rotates -/

/-- R200 to R205, R207: for counts below 16, the formulas of the five instructions, both forms; C is cleared by ROL, the
bit 16 of the ring after RCL, and a free value after SHL, SHR and SAR. -/
def Obligations.ShiftsFollowTheirFormulas : Prop :=
  ∀ (s : State) (i : Instr) (k : ShiftKind) (rD : Reg) (n next : Word), Shifts s i k rD n next → n.toNat < 16 →
    exec i s = .next (shifted s k rD (shiftedValue k s.flags.c (s.reg rD) n.toNat)
      (shiftedCarry k s.flags.c (s.reg rD) n.toNat s.draws) next)

/-- R206: a count of 16 or more faults under SHIFT_COUNT_BIG = fault; under masked it is taken mod 16; under mathematical
SHL and SHR give 0, SAR sixteen copies of bit 15, ROL takes it mod 16 and RCL mod 17. -/
def Obligations.BigShiftCounts : Prop :=
  ∀ (s : State) (i : Instr) (k : ShiftKind) (rD : Reg) (n next : Word), Shifts s i k rD n next → 16 ≤ n.toNat →
    (s.cfg.shiftCountBig = .fault → exec i s = .fault (.shiftCountOutOfRange n.toNat)) ∧
    (s.cfg.shiftCountBig = .masked →
      exec i s = .next (shifted s k rD (shiftedValue k s.flags.c (s.reg rD) (n.toNat % 16))
        (shiftedCarry k s.flags.c (s.reg rD) (n.toNat % 16) s.draws) next)) ∧
    (s.cfg.shiftCountBig = .mathematical →
      ((k = .shl ∨ k = .shr) → exec i s = .next (shifted s k rD 0 (Config.shiftCarry s.draws) next)) ∧
      (k = .sar → exec i s =
        .next (shifted s k rD (if (s.reg rD).toNat < 32768 then 0 else 65535) (Config.shiftCarry s.draws) next)) ∧
      (k = .rol → exec i s =
        .next (shifted s k rD (shiftedValue .rol s.flags.c (s.reg rD) (n.toNat % 16)) false next)) ∧
      (k = .rcl → exec i s =
        .next (shifted s k rD (shiftedValue .rcl s.flags.c (s.reg rD) (n.toNat % 17))
          (shiftedCarry .rcl s.flags.c (s.reg rD) (n.toNat % 17) s.draws) next)))

/-- R203: "Bit i of a moves to bit (i + n) mod 16" under ROL, both forms, and the carry is cleared. -/
def Obligations.RolMovesEachBit : Prop :=
  ∀ (s t : State) (i : Instr) (rD : Reg) (n next : Word) (j : Nat), Shifts s i .rol rD n next → n.toNat < 16 →
    j < 16 → exec i s = .next t →
    (t.reg rD).getLsbD ((j + n.toNat) % 16) = (s.reg rD).getLsbD j ∧ t.flags.c = false

/-! ## Stack -/

/-- R140, R141, R143: PUSH of a register and of an immediate, and PUSHLR, onto RAM: the value stored at the decremented
address, then the stack register; no flag changes. -/
def Obligations.PushStoresAndDecrements : Prop :=
  ∀ (s : State) (i : Instr) (sp : Reg) (v next : Word), Pushes s i sp v next → InRam s (s.reg sp - 2#16) .word →
    ∃ m, exec i s = .next (((s.setMem m).setReg sp (s.reg sp - 2#16)).setPc next) ∧
      (s.setMem m).ramWord (s.reg sp - 2#16) = v ∧
      ∀ b, ¬ Within (s.reg sp - 2#16) .word b → (s.setMem m).ramByte b = s.ramByte b

/-- R140, R142: POP from RAM into a register other than the stack register; no flag and no memory changes. -/
def Obligations.PopLoadsAndIncrements : Prop :=
  ∀ (s : State) (spn rD : Reg), rD ≠ stackNumber s.cfg spn → InRam s (s.reg (stackNumber s.cfg spn)) .word →
    exec (.pop spn rD) s =
      .next (((s.setReg rD (s.ramWord (s.reg (stackNumber s.cfg spn)))).setReg (stackNumber s.cfg spn)
        (s.reg (stackNumber s.cfg spn) + 2#16)).setPc (s.pc + 2#16))

/-- R144: PUSH of a register and POP whose data register is the stack register fault, with the instruction word; PUSH of
an immediate is not affected. -/
def Obligations.SameRegisterPushAndPopFault : Prop :=
  ∀ (s : State) (spn : Reg),
    exec (.pushR spn (stackNumber s.cfg spn)) s =
      .fault (.unspecifiedSameRegister (BitVec.ofNat 16 (0x0300 + 8 * spn.toNat + (stackNumber s.cfg spn).toNat))) ∧
    exec (.pop spn (stackNumber s.cfg spn)) s =
      .fault (.unspecifiedSameRegister (BitVec.ofNat 16 (0x0400 + 8 * spn.toNat + (stackNumber s.cfg spn).toNat))) ∧
    ∀ imm w, exec (.pushI spn imm) s ≠ .fault (.unspecifiedSameRegister w)

/-- R142: a POP after a PUSH on the same stack in RAM loads the value pushed and restores the stack register. -/
def Obligations.PopAfterPushRestores : Prop :=
  ∀ (s t u : State) (i : Instr) (spn rD : Reg) (v next : Word), Pushes s i (stackNumber s.cfg spn) v next →
    InRam s (s.reg (stackNumber s.cfg spn) - 2#16) .word → rD ≠ stackNumber s.cfg spn → exec i s = .next t →
    exec (.pop spn rD) t = .next u →
    u.reg rD = v ∧ u.reg (stackNumber s.cfg spn) = s.reg (stackNumber s.cfg spn) ∧
    ∀ r, r ≠ rD → u.reg r = s.reg r

/-! ## Loads and stores -/

/-- R170, R171, R172: LD and LD.b from RAM, all three addressing modes, under either LDB_EXTENSION; no flag and no memory
changes. -/
def Obligations.LoadsFromRam : Prop :=
  ∀ (s : State) (i : Instr) (rD : Reg) (ea next : Word),
    (LoadsFrom s i .word rD ea next → InRam s ea .word →
      exec i s = .next ((s.setReg rD (wordOf s.cfg.byteOrder (s.ramByte ea) (s.ramByte (ea + 1#16)))).setPc next)) ∧
    (LoadsFrom s i .byte rD ea next → InRam s ea .byte →
      exec i s = .next ((s.setReg rD (extended s.cfg.ldbExtension (s.ramByte ea))).setPc next))

/-- R170, R173, R174: ST and ST.b to RAM, all three addressing modes: the stored bytes hold `rD`, or its low 8 bits; every
other byte, every register, flag and device is as before. -/
def Obligations.StoresToRam : Prop :=
  ∀ (s : State) (i : Instr) (n : Size) (rD : Reg) (ea next : Word), StoresTo s i n rD ea next → InRam s ea n →
    ∃ m, exec i s = .next ((s.setMem m).setPc next) ∧
      (n = .word → (s.setMem m).ramWord ea = s.reg rD) ∧
      (n = .byte → ((s.setMem m).ramByte ea).toNat = (s.reg rD).toNat % 256) ∧
      ∀ b, ¬ Within ea n b → (s.setMem m).ramByte b = s.ramByte b

/-! ## Control transfer -/

/-- R180: with the printed table, each condition is the expression of its row. -/
def Obligations.ConditionsArePrintedExpressions : Prop :=
  ∀ (s : State) (cond : Cond), s.cfg.condTable = Config.printedCondTable →
    (s.holds cond = true ↔ printedCondition s.flags cond)

/-- R182, R186: JMP, both forms: taken to an even target, taken to an odd one, not taken; nothing but `pc` changes. -/
def Obligations.JumpGoesToItsTarget : Prop :=
  ∀ (s : State) (i : Instr) (cond : Cond) (target next : Word), Jumps s i cond target next →
    (s.holds cond = true → target.toNat % 2 = 0 → exec i s = .next (s.setPc target)) ∧
    (s.holds cond = true → target.toNat % 2 = 1 → exec i s = .fault (.misalignedTarget target)) ∧
    (s.holds cond = false → exec i s = .next (s.setPc next))

/-- R183, R186: CALL, both forms: `LR` is the address of the next instruction, only when the call is taken. -/
def Obligations.CallLinksAndGoesToItsTarget : Prop :=
  ∀ (s : State) (i : Instr) (cond : Cond) (target next : Word), Calls s i cond target next →
    (s.holds cond = true → target.toNat % 2 = 0 → exec i s = .next ((s.setLr next).setPc target)) ∧
    (s.holds cond = true → target.toNat % 2 = 1 → exec i s = .fault (.misalignedTarget target)) ∧
    (s.holds cond = false → exec i s = .next (s.setPc next))

/-- R184, R186: RET goes to `LR` and changes nothing else; an odd `LR` faults, which is the spec's own decision
(92_eei_decisions.md D19; notes/assumptions 25). -/
def Obligations.RetGoesToTheLink : Prop :=
  ∀ s : State, (s.lr.toNat % 2 = 0 → exec .ret s = .next (s.setPc s.lr)) ∧
    (s.lr.toNat % 2 = 1 → exec .ret s = .fault (.misalignedTarget s.lr))

/-- R183, R184: a RET after a taken CALL from an even `pc`, with no CALL between, resumes at the instruction after
the CALL. -/
def Obligations.RetResumesAfterTheCall : Prop :=
  ∀ (s t u : State) (i : Instr) (cond : Cond) (target next : Word), Calls s i cond target next →
    s.pc.toNat % 2 = 0 → s.holds cond = true → exec i s = .next t → u.lr = t.lr →
    exec .ret u = .next (u.setPc next)

/-- R185: SET writes 1 or 0, always, and no flag. -/
def Obligations.SetWritesTheCondition : Prop :=
  ∀ (s : State) (cond : Cond) (rD : Reg),
    (s.holds cond = true → exec (.set cond rD) s = .next ((s.setReg rD 1#16).setPc (s.pc + 2#16))) ∧
    (s.holds cond = false → exec (.set cond rD) s = .next ((s.setReg rD 0#16).setPc (s.pc + 2#16)))

/-! ## LDCP -/

/-- R220, R25, R32: LDCP of cr0 gives V, S, C, Z in bits 3 to 0 and zeros above; of cr1 to cr15 it gives a free value,
drawn anew at each read; no flag changes. -/
def Obligations.LdcpReadsTheFlags : Prop :=
  ∀ (s : State) (rD : Reg) (cr : CrNum),
    (cr = 0#4 → exec (.ldcp rD cr) s = .next ((s.setReg rD (BitVec.ofNat 16
      (8 * s.flags.v.toNat + 4 * s.flags.s.toNat + 2 * s.flags.c.toNat + s.flags.z.toNat))).setPc (s.pc + 2#16))) ∧
    (cr ≠ 0#4 → exec (.ldcp rD cr) s =
      .next ((s.draw.setReg rD (Config.freeWord s.draws)).setPc (s.pc + 2#16)))

/-! ## Devices -/

/-- R243: the LED latch takes the low byte stored at 0xFF00 and a load there reads it, with no side effect. -/
def Obligations.LedLatchHoldsWhatIsStored : Prop :=
  ∀ (s : State) (i : Instr) (rD : Reg) (next : Word),
    (StoresTo s i .byte rD 0xFF00#16 next →
      exec i s = .next ((s.setLed (BitVec.ofNat 8 ((s.reg rD).toNat % 256))).setPc next)) ∧
    (LoadsFrom s i .byte rD 0xFF00#16 next →
      exec i s = .next ((s.setReg rD (extended s.cfg.ldbExtension s.led)).setPc next))

/-- R245: a store to IO_UART_DATA with room in the Tx FIFO appends the byte; with the FIFO full only what the FIFO holds is
left open: its length, every register and everything else but `pc` and the count of draws is as before. R246: a load from
IO_UART_DATA takes the oldest byte of the Rx FIFO off it; with the FIFO empty the byte is a free value. -/
def Obligations.UartDataRegisterUsesTheQueues : Prop :=
  ∀ (s : State) (i : Instr) (rD : Reg) (next : Word),
    (StoresTo s i .byte rD 0xFF02#16 next →
      (s.uart.tx.length < 8 → exec i s = .next ((s.setUart { s.uart with
          tx := s.uart.tx ++ [BitVec.ofNat 8 ((s.reg rD).toNat % 256)] }).setPc next)) ∧
      (8 ≤ s.uart.tx.length → ∃ q : List Byte, q.length = s.uart.tx.length ∧
        exec i s = .next ((s.setUart { s.uart with tx := q }).draw.setPc next))) ∧
    (LoadsFrom s i .byte rD 0xFF02#16 next →
      (∀ b rest, s.uart.rx = b :: rest → exec i s =
        .next (((s.setUart { s.uart with rx := rest }).setReg rD (extended s.cfg.ldbExtension b)).setPc next)) ∧
      (s.uart.rx = [] → exec i s = .next ((s.draw.setReg rD
        (extended s.cfg.ldbExtension (Config.freeByte s.draws))).setPc next)))

/-- R247: a load from IO_UART_STATUS gives the four conditions in bits 3 to 0 and changes no device. -/
def Obligations.UartStatusShowsTheQueues : Prop :=
  ∀ (s : State) (i : Instr) (rD : Reg) (next : Word), LoadsFrom s i .byte rD 0xFF03#16 next →
    ∃ v : Word, exec i s = .next ((s.draw.setReg rD v).setPc next) ∧
      (v.getLsbD 0 = true ↔ s.uart.tx.length < 8) ∧ (v.getLsbD 1 = true ↔ s.uart.tx = []) ∧
      (v.getLsbD 2 = true ↔ s.uart.rx ≠ []) ∧ v.getLsbD 3 = s.uart.overrun ∧
      (s.cfg.ldbExtension = .zero → v.toNat < 256)

/-- R248, R251, R254: word stores to IO_UART_BAUD, IO_TIMER_DATA and IO_SOUND_DATA, and a word load from IO_TIMER_DATA; a
sound write changes the one voice of its top two bits. That a load from the write-only IO_SOUND_DATA faults is the
spec's own decision (92_eei_decisions.md D33; notes/assumptions 38). -/
def Obligations.BaudTimerAndSoundRegisters : Prop :=
  ∀ (s : State) (i : Instr) (rD : Reg) (next : Word),
    (StoresTo s i .word rD 0xFF04#16 next →
      exec i s = .next ((s.setUart { s.uart with baud := s.reg rD }).setPc next)) ∧
    (StoresTo s i .word rD 0xFF06#16 next → exec i s = .next ((s.setTimer (s.reg rD)).setPc next)) ∧
    (LoadsFrom s i .word rD 0xFF06#16 next → exec i s = .next ((s.setReg rD s.timer).setPc next)) ∧
    (LoadsFrom s i .word rD 0xFF08#16 next → exec i s = .fault (.peripheralAccessType 0xFF08#16 .read)) ∧
    (StoresTo s i .word rD 0xFF08#16 next →
      ∃ t : State, exec i s = .next (t.setPc next) ∧ t = { s with voices := t.voices } ∧
        ∀ k : Fin 4, t.voices[k] =
          if k.val = (s.reg rD).toNat / 16384 then BitVec.ofNat 14 ((s.reg rD).toNat % 16384) else s.voices[k])

/-- R249, R250, R252: the turns of the transmitter, the receiver and the timer. -/
def Obligations.UartAndTimerAgentsMove : Prop :=
  ∀ (s : State) (rest : List Turn),
    (s.sched = .uartTransmit :: rest → (s.uart.tx = [] → step s = .next (s.setSched rest)) ∧
      ∀ b q, s.uart.tx = b :: q →
        step s = .next ((s.setSched rest).setUart { s.uart with tx := q, sent := s.uart.sent ++ [b] })) ∧
    (∀ b, s.sched = .uartReceive b :: rest →
      (s.uart.rx.length < 8 →
        step s = .next ((s.setSched rest).setUart { s.uart with rx := s.uart.rx ++ [b] })) ∧
      (8 ≤ s.uart.rx.length → ∃ q : List Byte, q.length = s.uart.rx.length ∧
        step s = .next ((s.setSched rest).setUart { s.uart with rx := q, overrun := true }).draw)) ∧
    (s.sched = .timerTick :: rest →
      step s = .next ((s.setSched rest).setTimer (BitVec.ofNat 16 (s.timer.toNat - 1))))

/-- R259, R261, R262, R263, R265, R268: word stores to the DMA registers: a reserved value of DMA_CONTROL faults; while no
transfer runs the parameter registers take the word, and DMA_CONTROL starts a transfer whose count is even and not
0, whose local address is even, whose local range stays in RAM and below 0xFF00, and whose external range stays in the
DRAM; any other start, and every write while a transfer runs, is refused (92_eei_decisions.md D32; notes/assumptions 23;
the low address bits and the size of the DRAM: 22). -/
def Obligations.DmaRegistersStartATransfer : Prop :=
  ∀ (s : State) (i : Instr) (rD : Reg) (ea next : Word), StoresTo s i .word rD ea next →
    (ea = 0xFF0A#16 → 2 ≤ (s.reg rD).toNat → exec i s = .fault (.reservedDmaType (s.reg rD))) ∧
    (ea = 0xFF0A#16 → (s.reg rD).toNat < 2 → s.dma.busy = false → exec i s =
      if s.dma.count.toNat ≠ 0 ∧ s.dma.count.toNat % 2 = 0 ∧ s.dma.localAddr.toNat % 2 = 0 ∧
          s.dma.localAddr.toNat + s.dma.count.toNat ≤ s.cfg.ramLimit.toNat ∧
          s.dma.localAddr.toNat + s.dma.count.toNat ≤ 0xFF00 ∧
          s.dma.remote.toNat * 2 ^ s.cfg.dmaRemoteShift + s.dma.remoteLow + s.dma.count.toNat ≤ s.cfg.dramSize then
        .next ((s.setDma { s.dma with kind := BitVec.ofNat 3 (s.reg rD).toNat, busy := true, moved := [] }).setPc next)
      else .refused (.dmaUnsupportedTransfer s.dma.localAddr s.dma.count)) ∧
    (ea = 0xFF0A#16 → (s.reg rD).toNat < 2 → s.dma.busy = true →
      exec i s = .refused (.dmaRegisterWhileBusy ea)) ∧
    (ea ∈ [0xFF0C#16, 0xFF0E#16, 0xFF10#16] → s.dma.busy = true → exec i s = .refused (.dmaRegisterWhileBusy ea)) ∧
    (ea = 0xFF0C#16 → s.dma.busy = false →
      exec i s = .next ((s.setDma { s.dma with localAddr := s.reg rD }).setPc next)) ∧
    (ea = 0xFF0E#16 → s.dma.busy = false →
      exec i s = .next ((s.setDma { s.dma with remote := s.reg rD, remoteLow := 0 }).setPc next)) ∧
    (ea = 0xFF10#16 → s.dma.busy = false →
      exec i s = .next ((s.setDma { s.dma with count := s.reg rD }).setPc next))

/-- R260: with admissible parameters, a word load from DMA_CONTROL in an idle state and one in a busy state of the same
machine give values that differ in bits 2:0, and the load changes no device. -/
def Obligations.DmaStatusTellsIdleFromBusy : Prop :=
  ∀ (s t : State) (i j : Instr) (rD rE : Reg) (next next' : Word), s.cfg.wf = true → t.cfg = s.cfg →
    LoadsFrom s i .word rD 0xFF0A#16 next → LoadsFrom t j .word rE 0xFF0A#16 next' →
    s.dma.busy = false → t.dma.busy = true →
    ∃ v w : Word, exec i s = .next ((s.draw.setReg rD v).setPc next) ∧
      exec j t = .next ((t.draw.setReg rE w).setPc next') ∧ v.toNat % 8 ≠ w.toNat % 8

/-- R264, R265, R266: one turn of the DMA engine, in every state. A turn for byte `i` copies it by the type, to the place
that R265 names, if it is still to move, and records it or, with the last one, ends the transfer (what the address
registers keep of the low bits, and the count: notes/assumptions 22, 24); every other byte of both memories and every other
field is as before. A turn for any other byte changes nothing. The engine's own turn moves one of the bytes still to
move, for one draw, if there is one, and changes nothing while no transfer runs. -/
def Obligations.DmaTurnMovesOneByte : Prop :=
  ∀ (s : State) (rest : List Turn),
    (∀ i, s.sched = .dmaMove i :: rest →
      let n := s.dma.count.toNat
      let localByte : Word := s.dma.localAddr + BitVec.ofNat 16 i
      let external : Nat := s.dma.remote.toNat * 2 ^ s.cfg.dmaRemoteShift + s.dma.remoteLow
      (¬ StillToMove s.dma i → step s = .next (s.setSched rest)) ∧
      (StillToMove s.dma i → ∃ t, step s = .next t ∧
        t = { s with mem := t.mem, dram := t.dram, dma := t.dma, draws := t.draws, sched := rest } ∧
        (s.dma.kind = 0#3 → t.mem = s.mem ∧
          ∀ a : Nat, t.dramByte a = if a = external + i then s.ramByte localByte else s.dramByte a) ∧
        (s.dma.kind = 1#3 → t.dram = s.dram ∧
          ∀ a : Word, t.ramByte a = if a = localByte then s.dramByte (external + i) else s.ramByte a) ∧
        (s.dma.moved.length + 1 ≠ n → t.dma = { s.dma with moved := i :: s.dma.moved } ∧ t.draws = s.draws) ∧
        (s.dma.moved.length + 1 = n → t.draws = s.draws + 1 ∧ t.dma =
          { localAddr := s.dma.localAddr + s.dma.count
            remote := BitVec.ofNat 16 ((external + n) / 2 ^ s.cfg.dmaRemoteShift)
            remoteLow := if s.cfg.dmaKeepsLow = true then (external + n) % 2 ^ s.cfg.dmaRemoteShift else 0
            count := Config.freeWord s.draws
            kind := s.dma.kind
            busy := false
            moved := [] }))) ∧
    (s.sched = .dmaAny :: rest →
      (s.dma.busy = false → step s = .next (s.setSched rest)) ∧
      ((∃ j, StillToMove s.dma j) →
        ∃ i, StillToMove s.dma i ∧ step s = step (s.draw.setSched (.dmaMove i :: rest))))

/-- R264, R265, R266: a running transfer whose byte moves all happen, in any order, copies its bytes (DMA_WRITE from RAM to
DRAM, DMA_READ back), ends idle with the address registers after the final addresses, and changes no other byte,
no register and no flag. -/
def Obligations.DmaTransferCopiesInAnyOrder : Prop :=
  ∀ (s : State) (order : List Nat), s.dma.busy = true → s.dma.moved = [] → dmaAcceptable s = true →
    s.dma.kind.toNat < 2 → order.Perm (List.range s.dma.count.toNat) → s.sched = order.map .dmaMove →
    ∃ t, Sys2Proof.core.run s.dma.count.toNat s = .next t ∧ t.dma.busy = false ∧ t.sched = [] ∧
      t.dma.localAddr = s.dma.localAddr + s.dma.count ∧
      t.dma.remote.toNat = (dmaExternal s + s.dma.count.toNat) / 2 ^ s.cfg.dmaRemoteShift % 65536 ∧
      (∀ k, k < s.dma.count.toNat →
        (s.dma.kind = 0#3 → t.dramByte (dmaExternal s + k) = s.ramByte (s.dma.localAddr + BitVec.ofNat 16 k)) ∧
        (s.dma.kind = 1#3 → t.ramByte (s.dma.localAddr + BitVec.ofNat 16 k) = s.dramByte (dmaExternal s + k))) ∧
      (s.dma.kind = 0#3 → t.mem = s.mem ∧
        ∀ a, (a < dmaExternal s ∨ dmaExternal s + s.dma.count.toNat ≤ a) → t.dramByte a = s.dramByte a) ∧
      (s.dma.kind = 1#3 → t.dram = s.dram ∧
        ∀ a : Word, (a.toNat < s.dma.localAddr.toNat ∨ s.dma.localAddr.toNat + s.dma.count.toNat ≤ a.toNat) →
          t.ramByte a = s.ramByte a) ∧
      t.regs = s.regs ∧ t.pc = s.pc ∧ t.lr = s.lr ∧ t.flags = s.flags ∧ t.uart = s.uart ∧ t.timer = s.timer ∧
      t.led = s.led ∧ t.voices = s.voices ∧ t.cfg = s.cfg

/-! ## Fairness -/

/-- R11 item 7, R249, R253, R265: from every state the turn of the core, of the timer, of the transmitter and of the DMA
engine comes again after some number of steps, unless the core stops the run before. -/
def Obligations.EveryAgentsTurnComesAgain : Prop :=
  ∀ s : State,
    (∃ n, ∀ t, Sys2Proof.core.run n s = .next t → CoreTurn t) ∧
    ∀ turn ∈ [Turn.timerTick, .uartTransmit, .dmaAny],
      ∃ n, ∀ t, Sys2Proof.core.run n s = .next t → ∃ rest, t.sched = turn :: rest

/-- R249, R253, R265: unless the core stops the run before: with bytes in the Tx FIFO one is sent after some number of
steps; a timer count that is not 0 changes (the timer takes 1 off it, or the core writes it before); and, in a state that
meets the invariant, a running DMA transfer ends. -/
def Obligations.DevicesFinishTheirWork : Prop :=
  ∀ s : State,
    (s.uart.tx ≠ [] → ∃ n, ∀ t, Sys2Proof.core.run n s = .next t → s.uart.sent.length < t.uart.sent.length) ∧
    (s.timer ≠ 0#16 → ∃ n, ∀ t, Sys2Proof.core.run n s = .next t →
      ∃ m u, m ≤ n ∧ Sys2Proof.core.run m s = .next u ∧ u.timer ≠ s.timer) ∧
    (Inv s → s.dma.busy = true → ∃ n, ∀ t, Sys2Proof.core.run n s = .next t →
      ∃ m u, m ≤ n ∧ Sys2Proof.core.run m s = .next u ∧ u.dma.busy = false)

/-- R294, R182, R253: while the core repeats a `JMP.AL` to its own address, a running transfer being one out of RAM (one into
RAM may overwrite the jump), the timer gets to 0, the Tx FIFO is emptied and the transfer ends, all in one state of the
run, in which the core's registers, `pc`, `LR`, the flags and RAM are as they were. -/
def Obligations.DevicesRunOnDuringASelfJump : Prop :=
  ∀ s : State, Inv s → Fetchable s s.pc → Fetchable s (s.pc + 2#16) →
    decode (s.ramWord s.pc) (s.ramWord (s.pc + 2#16)) = .ok (.jmpI .al s.pc) →
    s.cfg.condTable = Config.printedCondTable → (s.dma.busy = true → s.dma.kind = 0#3) →
    ∃ n t, Sys2Proof.core.run n s = .next t ∧ t.timer = 0#16 ∧ t.uart.tx = [] ∧ t.dma.busy = false ∧
      t.regs = s.regs ∧ t.pc = s.pc ∧ t.lr = s.lr ∧ t.flags = s.flags ∧ t.mem = s.mem

/-! ## Whole-machine rules -/

/-- R22: an instruction that completes writes no general register but those the table lists for it. -/
def Obligations.OnlyListedRegistersChange : Prop :=
  ∀ (i : Instr) (s t : State) (r : Reg), exec i s = .next t → r ∉ writtenRegs s.cfg i → t.reg r = s.reg r

/-- R29, R30: an instruction that is not listed as writing flags leaves all four. -/
def Obligations.OnlyListedInstructionsChangeFlags : Prop :=
  ∀ (i : Instr) (s t : State), exec i s = .next t → writesFlags i = false → t.flags = s.flags

/-- R23, R24: `pc` after an instruction other than JMP, CALL and RET is its `next_pc`; `LR` after an instruction other
than CALL is as before. -/
def Obligations.OnlyControlTransfersChangePcAndLink : Prop :=
  ∀ (i : Instr) (s t : State), exec i s = .next t →
    (transfersControl i = false → t.pc = s.pc + BitVec.ofNat 16 (byteLength i)) ∧
    ((∀ cond rD, i ≠ .callR cond rD) → (∀ cond imm, i ≠ .callI cond imm) → t.lr = s.lr)

/-- R56: an instruction changes no byte of RAM but those it stores, and never the external DRAM (R52); one that accesses
no data memory leaves every device alone. -/
def Obligations.OnlyStoredBytesChange : Prop :=
  ∀ (i : Instr) (s t : State), exec i s = .next t → t.dram = s.dram ∧
    (storeTarget s i = none → ∀ b, t.ramByte b = s.ramByte b) ∧
    (∀ a n, storeTarget s i = some (a, n) → ∀ b, ¬ Within a n b → t.ramByte b = s.ramByte b) ∧
    (accessesData i = false → t.led = s.led ∧ t.uart = s.uart ∧ t.timer = s.timer ∧ t.voices = s.voices ∧ t.dma = s.dma)

/-- R36: no step changes the parameters. R249, R245: the bytes the transmitter has sent are only ever added to, and a byte is sent only from the head of the
Tx FIFO. -/
def Obligations.EveryStepKeepsParametersAndUartOutput : Prop :=
  ∀ s t : State, step s = .next t → t.cfg = s.cfg ∧
    (t.uart.sent = s.uart.sent ∨
      ∃ b q, s.uart.tx = b :: q ∧ t.uart.tx = q ∧ t.uart.sent = s.uart.sent ++ [b])

/-- The model's reading (notes/assumptions 42) of R55, R144, R186, R206 on the instruction alone: an instruction that is not
well formed faults in every state. -/
def Obligations.IllFormedInstructionsAlwaysFault : Prop :=
  ∀ (i : Instr) (s : State), i.wellFormed s.cfg = false → ∃ f, exec i s = .fault f

/-- R292, R37: after reset `pc` is RESET_PC, cr0 bits 15:4 read as 0, and with admissible parameters the baud divisor is
108 or 109. -/
def Obligations.ResetSetsPcAndBaudDivisor : Prop :=
  ∀ c : Config, (State.resetWith c).pc = c.resetPc ∧ (State.resetWith c).flags.toWord.toNat < 16 ∧
    (c.wf = true → (State.resetWith c).uart.baud.toNat = 108 ∨ (State.resetWith c).uart.baud.toNat = 109)

/-- The reset state meets the invariant, under any admissible parameters and under those of `Config.chosen`. The values of
the registers, flags and devices are the model's choice (notes/assumptions 1, 7). -/
def Obligations.ResetMeetsTheInvariant : Prop :=
  Inv State.reset ∧ ∀ c : Config, c.wf = true → Inv (State.resetWith c)

/-- R23, R186, R51, R244, R259, R265: every step of the machine, from any state that meets the invariant, keeps it. -/
def Obligations.EveryStepKeepsTheInvariant : Prop :=
  ∀ s t : State, Inv s → step s = .next t → Inv t
end

