-- ==== Sys2Proof/Laws/State.lean ====
section
/-! SUPPORT. The small lemmas of State: each field after each named update. -/

namespace Sys2Proof.Machine

variable (s : State)

@[simp] theorem State.setReg_regs (r : Reg) (v : Word) : (s.setReg r v).regs = s.regs.set r.toNat v := rfl
@[simp] theorem State.setReg_pc (r : Reg) (v : Word) : (s.setReg r v).pc = s.pc := rfl
@[simp] theorem State.setReg_lr (r : Reg) (v : Word) : (s.setReg r v).lr = s.lr := rfl
@[simp] theorem State.setReg_flags (r : Reg) (v : Word) : (s.setReg r v).flags = s.flags := rfl
@[simp] theorem State.setReg_mem (r : Reg) (v : Word) : (s.setReg r v).mem = s.mem := rfl
@[simp] theorem State.setReg_led (r : Reg) (v : Word) : (s.setReg r v).led = s.led := rfl
@[simp] theorem State.setReg_uart (r : Reg) (v : Word) : (s.setReg r v).uart = s.uart := rfl
@[simp] theorem State.setReg_timer (r : Reg) (v : Word) : (s.setReg r v).timer = s.timer := rfl
@[simp] theorem State.setReg_voices (r : Reg) (v : Word) : (s.setReg r v).voices = s.voices := rfl
@[simp] theorem State.setReg_dma (r : Reg) (v : Word) : (s.setReg r v).dma = s.dma := rfl
@[simp] theorem State.setReg_dram (r : Reg) (v : Word) : (s.setReg r v).dram = s.dram := rfl
@[simp] theorem State.setReg_cfg (r : Reg) (v : Word) : (s.setReg r v).cfg = s.cfg := rfl
@[simp] theorem State.setReg_draws (r : Reg) (v : Word) : (s.setReg r v).draws = s.draws := rfl
@[simp] theorem State.setReg_sched (r : Reg) (v : Word) : (s.setReg r v).sched = s.sched := rfl
@[simp] theorem State.setReg_ramByte (r : Reg) (v : Word) (x : Word) : (s.setReg r v).ramByte x = s.ramByte x := rfl
@[simp] theorem State.setReg_ramWord (r : Reg) (v : Word) (x : Word) : (s.setReg r v).ramWord x = s.ramWord x := rfl

@[simp] theorem State.setPc_regs (v : Word) : (s.setPc v).regs = s.regs := rfl
@[simp] theorem State.setPc_pc (v : Word) : (s.setPc v).pc = v := rfl
@[simp] theorem State.setPc_lr (v : Word) : (s.setPc v).lr = s.lr := rfl
@[simp] theorem State.setPc_flags (v : Word) : (s.setPc v).flags = s.flags := rfl
@[simp] theorem State.setPc_mem (v : Word) : (s.setPc v).mem = s.mem := rfl
@[simp] theorem State.setPc_led (v : Word) : (s.setPc v).led = s.led := rfl
@[simp] theorem State.setPc_uart (v : Word) : (s.setPc v).uart = s.uart := rfl
@[simp] theorem State.setPc_timer (v : Word) : (s.setPc v).timer = s.timer := rfl
@[simp] theorem State.setPc_voices (v : Word) : (s.setPc v).voices = s.voices := rfl
@[simp] theorem State.setPc_dma (v : Word) : (s.setPc v).dma = s.dma := rfl
@[simp] theorem State.setPc_dram (v : Word) : (s.setPc v).dram = s.dram := rfl
@[simp] theorem State.setPc_cfg (v : Word) : (s.setPc v).cfg = s.cfg := rfl
@[simp] theorem State.setPc_draws (v : Word) : (s.setPc v).draws = s.draws := rfl
@[simp] theorem State.setPc_sched (v : Word) : (s.setPc v).sched = s.sched := rfl
@[simp] theorem State.setPc_reg (v : Word) (q : Reg) : (s.setPc v).reg q = s.reg q := rfl
@[simp] theorem State.setPc_ramByte (v : Word) (x : Word) : (s.setPc v).ramByte x = s.ramByte x := rfl
@[simp] theorem State.setPc_ramWord (v : Word) (x : Word) : (s.setPc v).ramWord x = s.ramWord x := rfl

@[simp] theorem State.setLr_regs (v : Word) : (s.setLr v).regs = s.regs := rfl
@[simp] theorem State.setLr_pc (v : Word) : (s.setLr v).pc = s.pc := rfl
@[simp] theorem State.setLr_lr (v : Word) : (s.setLr v).lr = v := rfl
@[simp] theorem State.setLr_flags (v : Word) : (s.setLr v).flags = s.flags := rfl
@[simp] theorem State.setLr_mem (v : Word) : (s.setLr v).mem = s.mem := rfl
@[simp] theorem State.setLr_led (v : Word) : (s.setLr v).led = s.led := rfl
@[simp] theorem State.setLr_uart (v : Word) : (s.setLr v).uart = s.uart := rfl
@[simp] theorem State.setLr_timer (v : Word) : (s.setLr v).timer = s.timer := rfl
@[simp] theorem State.setLr_voices (v : Word) : (s.setLr v).voices = s.voices := rfl
@[simp] theorem State.setLr_dma (v : Word) : (s.setLr v).dma = s.dma := rfl
@[simp] theorem State.setLr_dram (v : Word) : (s.setLr v).dram = s.dram := rfl
@[simp] theorem State.setLr_cfg (v : Word) : (s.setLr v).cfg = s.cfg := rfl
@[simp] theorem State.setLr_draws (v : Word) : (s.setLr v).draws = s.draws := rfl
@[simp] theorem State.setLr_sched (v : Word) : (s.setLr v).sched = s.sched := rfl
@[simp] theorem State.setLr_reg (v : Word) (q : Reg) : (s.setLr v).reg q = s.reg q := rfl
@[simp] theorem State.setLr_ramByte (v : Word) (x : Word) : (s.setLr v).ramByte x = s.ramByte x := rfl
@[simp] theorem State.setLr_ramWord (v : Word) (x : Word) : (s.setLr v).ramWord x = s.ramWord x := rfl

@[simp] theorem State.setFlags_regs (f : Flags) : (s.setFlags f).regs = s.regs := rfl
@[simp] theorem State.setFlags_pc (f : Flags) : (s.setFlags f).pc = s.pc := rfl
@[simp] theorem State.setFlags_lr (f : Flags) : (s.setFlags f).lr = s.lr := rfl
@[simp] theorem State.setFlags_flags (f : Flags) : (s.setFlags f).flags = f := rfl
@[simp] theorem State.setFlags_mem (f : Flags) : (s.setFlags f).mem = s.mem := rfl
@[simp] theorem State.setFlags_led (f : Flags) : (s.setFlags f).led = s.led := rfl
@[simp] theorem State.setFlags_uart (f : Flags) : (s.setFlags f).uart = s.uart := rfl
@[simp] theorem State.setFlags_timer (f : Flags) : (s.setFlags f).timer = s.timer := rfl
@[simp] theorem State.setFlags_voices (f : Flags) : (s.setFlags f).voices = s.voices := rfl
@[simp] theorem State.setFlags_dma (f : Flags) : (s.setFlags f).dma = s.dma := rfl
@[simp] theorem State.setFlags_dram (f : Flags) : (s.setFlags f).dram = s.dram := rfl
@[simp] theorem State.setFlags_cfg (f : Flags) : (s.setFlags f).cfg = s.cfg := rfl
@[simp] theorem State.setFlags_draws (f : Flags) : (s.setFlags f).draws = s.draws := rfl
@[simp] theorem State.setFlags_sched (f : Flags) : (s.setFlags f).sched = s.sched := rfl
@[simp] theorem State.setFlags_reg (f : Flags) (q : Reg) : (s.setFlags f).reg q = s.reg q := rfl
@[simp] theorem State.setFlags_ramByte (f : Flags) (x : Word) : (s.setFlags f).ramByte x = s.ramByte x := rfl
@[simp] theorem State.setFlags_ramWord (f : Flags) (x : Word) : (s.setFlags f).ramWord x = s.ramWord x := rfl

@[simp] theorem State.setMem_regs (m : Memory) : (s.setMem m).regs = s.regs := rfl
@[simp] theorem State.setMem_pc (m : Memory) : (s.setMem m).pc = s.pc := rfl
@[simp] theorem State.setMem_lr (m : Memory) : (s.setMem m).lr = s.lr := rfl
@[simp] theorem State.setMem_flags (m : Memory) : (s.setMem m).flags = s.flags := rfl
@[simp] theorem State.setMem_mem (m : Memory) : (s.setMem m).mem = m := rfl
@[simp] theorem State.setMem_led (m : Memory) : (s.setMem m).led = s.led := rfl
@[simp] theorem State.setMem_uart (m : Memory) : (s.setMem m).uart = s.uart := rfl
@[simp] theorem State.setMem_timer (m : Memory) : (s.setMem m).timer = s.timer := rfl
@[simp] theorem State.setMem_voices (m : Memory) : (s.setMem m).voices = s.voices := rfl
@[simp] theorem State.setMem_dma (m : Memory) : (s.setMem m).dma = s.dma := rfl
@[simp] theorem State.setMem_dram (m : Memory) : (s.setMem m).dram = s.dram := rfl
@[simp] theorem State.setMem_cfg (m : Memory) : (s.setMem m).cfg = s.cfg := rfl
@[simp] theorem State.setMem_draws (m : Memory) : (s.setMem m).draws = s.draws := rfl
@[simp] theorem State.setMem_sched (m : Memory) : (s.setMem m).sched = s.sched := rfl
@[simp] theorem State.setMem_reg (m : Memory) (q : Reg) : (s.setMem m).reg q = s.reg q := rfl

@[simp] theorem State.setLed_regs (b : Byte) : (s.setLed b).regs = s.regs := rfl
@[simp] theorem State.setLed_pc (b : Byte) : (s.setLed b).pc = s.pc := rfl
@[simp] theorem State.setLed_lr (b : Byte) : (s.setLed b).lr = s.lr := rfl
@[simp] theorem State.setLed_flags (b : Byte) : (s.setLed b).flags = s.flags := rfl
@[simp] theorem State.setLed_mem (b : Byte) : (s.setLed b).mem = s.mem := rfl
@[simp] theorem State.setLed_led (b : Byte) : (s.setLed b).led = b := rfl
@[simp] theorem State.setLed_uart (b : Byte) : (s.setLed b).uart = s.uart := rfl
@[simp] theorem State.setLed_timer (b : Byte) : (s.setLed b).timer = s.timer := rfl
@[simp] theorem State.setLed_voices (b : Byte) : (s.setLed b).voices = s.voices := rfl
@[simp] theorem State.setLed_dma (b : Byte) : (s.setLed b).dma = s.dma := rfl
@[simp] theorem State.setLed_dram (b : Byte) : (s.setLed b).dram = s.dram := rfl
@[simp] theorem State.setLed_cfg (b : Byte) : (s.setLed b).cfg = s.cfg := rfl
@[simp] theorem State.setLed_draws (b : Byte) : (s.setLed b).draws = s.draws := rfl
@[simp] theorem State.setLed_sched (b : Byte) : (s.setLed b).sched = s.sched := rfl
@[simp] theorem State.setLed_reg (b : Byte) (q : Reg) : (s.setLed b).reg q = s.reg q := rfl
@[simp] theorem State.setLed_ramByte (b : Byte) (x : Word) : (s.setLed b).ramByte x = s.ramByte x := rfl
@[simp] theorem State.setLed_ramWord (b : Byte) (x : Word) : (s.setLed b).ramWord x = s.ramWord x := rfl

@[simp] theorem State.setUart_regs (u : Uart) : (s.setUart u).regs = s.regs := rfl
@[simp] theorem State.setUart_pc (u : Uart) : (s.setUart u).pc = s.pc := rfl
@[simp] theorem State.setUart_lr (u : Uart) : (s.setUart u).lr = s.lr := rfl
@[simp] theorem State.setUart_flags (u : Uart) : (s.setUart u).flags = s.flags := rfl
@[simp] theorem State.setUart_mem (u : Uart) : (s.setUart u).mem = s.mem := rfl
@[simp] theorem State.setUart_led (u : Uart) : (s.setUart u).led = s.led := rfl
@[simp] theorem State.setUart_uart (u : Uart) : (s.setUart u).uart = u := rfl
@[simp] theorem State.setUart_timer (u : Uart) : (s.setUart u).timer = s.timer := rfl
@[simp] theorem State.setUart_voices (u : Uart) : (s.setUart u).voices = s.voices := rfl
@[simp] theorem State.setUart_dma (u : Uart) : (s.setUart u).dma = s.dma := rfl
@[simp] theorem State.setUart_dram (u : Uart) : (s.setUart u).dram = s.dram := rfl
@[simp] theorem State.setUart_cfg (u : Uart) : (s.setUart u).cfg = s.cfg := rfl
@[simp] theorem State.setUart_draws (u : Uart) : (s.setUart u).draws = s.draws := rfl
@[simp] theorem State.setUart_sched (u : Uart) : (s.setUart u).sched = s.sched := rfl
@[simp] theorem State.setUart_reg (u : Uart) (q : Reg) : (s.setUart u).reg q = s.reg q := rfl
@[simp] theorem State.setUart_ramByte (u : Uart) (x : Word) : (s.setUart u).ramByte x = s.ramByte x := rfl
@[simp] theorem State.setUart_ramWord (u : Uart) (x : Word) : (s.setUart u).ramWord x = s.ramWord x := rfl

@[simp] theorem State.setTimer_regs (v : Word) : (s.setTimer v).regs = s.regs := rfl
@[simp] theorem State.setTimer_pc (v : Word) : (s.setTimer v).pc = s.pc := rfl
@[simp] theorem State.setTimer_lr (v : Word) : (s.setTimer v).lr = s.lr := rfl
@[simp] theorem State.setTimer_flags (v : Word) : (s.setTimer v).flags = s.flags := rfl
@[simp] theorem State.setTimer_mem (v : Word) : (s.setTimer v).mem = s.mem := rfl
@[simp] theorem State.setTimer_led (v : Word) : (s.setTimer v).led = s.led := rfl
@[simp] theorem State.setTimer_uart (v : Word) : (s.setTimer v).uart = s.uart := rfl
@[simp] theorem State.setTimer_timer (v : Word) : (s.setTimer v).timer = v := rfl
@[simp] theorem State.setTimer_voices (v : Word) : (s.setTimer v).voices = s.voices := rfl
@[simp] theorem State.setTimer_dma (v : Word) : (s.setTimer v).dma = s.dma := rfl
@[simp] theorem State.setTimer_dram (v : Word) : (s.setTimer v).dram = s.dram := rfl
@[simp] theorem State.setTimer_cfg (v : Word) : (s.setTimer v).cfg = s.cfg := rfl
@[simp] theorem State.setTimer_draws (v : Word) : (s.setTimer v).draws = s.draws := rfl
@[simp] theorem State.setTimer_sched (v : Word) : (s.setTimer v).sched = s.sched := rfl
@[simp] theorem State.setTimer_reg (v : Word) (q : Reg) : (s.setTimer v).reg q = s.reg q := rfl
@[simp] theorem State.setTimer_ramByte (v : Word) (x : Word) : (s.setTimer v).ramByte x = s.ramByte x := rfl
@[simp] theorem State.setTimer_ramWord (v : Word) (x : Word) : (s.setTimer v).ramWord x = s.ramWord x := rfl

@[simp] theorem State.setVoice_regs (n : BitVec 2) (d : BitVec 14) : (s.setVoice n d).regs = s.regs := rfl
@[simp] theorem State.setVoice_pc (n : BitVec 2) (d : BitVec 14) : (s.setVoice n d).pc = s.pc := rfl
@[simp] theorem State.setVoice_lr (n : BitVec 2) (d : BitVec 14) : (s.setVoice n d).lr = s.lr := rfl
@[simp] theorem State.setVoice_flags (n : BitVec 2) (d : BitVec 14) : (s.setVoice n d).flags = s.flags := rfl
@[simp] theorem State.setVoice_mem (n : BitVec 2) (d : BitVec 14) : (s.setVoice n d).mem = s.mem := rfl
@[simp] theorem State.setVoice_led (n : BitVec 2) (d : BitVec 14) : (s.setVoice n d).led = s.led := rfl
@[simp] theorem State.setVoice_uart (n : BitVec 2) (d : BitVec 14) : (s.setVoice n d).uart = s.uart := rfl
@[simp] theorem State.setVoice_timer (n : BitVec 2) (d : BitVec 14) : (s.setVoice n d).timer = s.timer := rfl
@[simp] theorem State.setVoice_voices (n : BitVec 2) (d : BitVec 14) : (s.setVoice n d).voices = s.voices.set n.toNat d := rfl
@[simp] theorem State.setVoice_dma (n : BitVec 2) (d : BitVec 14) : (s.setVoice n d).dma = s.dma := rfl
@[simp] theorem State.setVoice_dram (n : BitVec 2) (d : BitVec 14) : (s.setVoice n d).dram = s.dram := rfl
@[simp] theorem State.setVoice_cfg (n : BitVec 2) (d : BitVec 14) : (s.setVoice n d).cfg = s.cfg := rfl
@[simp] theorem State.setVoice_draws (n : BitVec 2) (d : BitVec 14) : (s.setVoice n d).draws = s.draws := rfl
@[simp] theorem State.setVoice_sched (n : BitVec 2) (d : BitVec 14) : (s.setVoice n d).sched = s.sched := rfl
@[simp] theorem State.setVoice_reg (n : BitVec 2) (d : BitVec 14) (q : Reg) : (s.setVoice n d).reg q = s.reg q := rfl
@[simp] theorem State.setVoice_ramByte (n : BitVec 2) (d : BitVec 14) (x : Word) : (s.setVoice n d).ramByte x = s.ramByte x := rfl
@[simp] theorem State.setVoice_ramWord (n : BitVec 2) (d : BitVec 14) (x : Word) : (s.setVoice n d).ramWord x = s.ramWord x := rfl

@[simp] theorem State.setDma_regs (d : Dma) : (s.setDma d).regs = s.regs := rfl
@[simp] theorem State.setDma_pc (d : Dma) : (s.setDma d).pc = s.pc := rfl
@[simp] theorem State.setDma_lr (d : Dma) : (s.setDma d).lr = s.lr := rfl
@[simp] theorem State.setDma_flags (d : Dma) : (s.setDma d).flags = s.flags := rfl
@[simp] theorem State.setDma_mem (d : Dma) : (s.setDma d).mem = s.mem := rfl
@[simp] theorem State.setDma_led (d : Dma) : (s.setDma d).led = s.led := rfl
@[simp] theorem State.setDma_uart (d : Dma) : (s.setDma d).uart = s.uart := rfl
@[simp] theorem State.setDma_timer (d : Dma) : (s.setDma d).timer = s.timer := rfl
@[simp] theorem State.setDma_voices (d : Dma) : (s.setDma d).voices = s.voices := rfl
@[simp] theorem State.setDma_dma (d : Dma) : (s.setDma d).dma = d := rfl
@[simp] theorem State.setDma_dram (d : Dma) : (s.setDma d).dram = s.dram := rfl
@[simp] theorem State.setDma_cfg (d : Dma) : (s.setDma d).cfg = s.cfg := rfl
@[simp] theorem State.setDma_draws (d : Dma) : (s.setDma d).draws = s.draws := rfl
@[simp] theorem State.setDma_sched (d : Dma) : (s.setDma d).sched = s.sched := rfl
@[simp] theorem State.setDma_reg (d : Dma) (q : Reg) : (s.setDma d).reg q = s.reg q := rfl
@[simp] theorem State.setDma_ramByte (d : Dma) (x : Word) : (s.setDma d).ramByte x = s.ramByte x := rfl
@[simp] theorem State.setDma_ramWord (d : Dma) (x : Word) : (s.setDma d).ramWord x = s.ramWord x := rfl

@[simp] theorem State.setDram_regs (m : Memory) : (s.setDram m).regs = s.regs := rfl
@[simp] theorem State.setDram_pc (m : Memory) : (s.setDram m).pc = s.pc := rfl
@[simp] theorem State.setDram_lr (m : Memory) : (s.setDram m).lr = s.lr := rfl
@[simp] theorem State.setDram_flags (m : Memory) : (s.setDram m).flags = s.flags := rfl
@[simp] theorem State.setDram_mem (m : Memory) : (s.setDram m).mem = s.mem := rfl
@[simp] theorem State.setDram_led (m : Memory) : (s.setDram m).led = s.led := rfl
@[simp] theorem State.setDram_uart (m : Memory) : (s.setDram m).uart = s.uart := rfl
@[simp] theorem State.setDram_timer (m : Memory) : (s.setDram m).timer = s.timer := rfl
@[simp] theorem State.setDram_voices (m : Memory) : (s.setDram m).voices = s.voices := rfl
@[simp] theorem State.setDram_dma (m : Memory) : (s.setDram m).dma = s.dma := rfl
@[simp] theorem State.setDram_dram (m : Memory) : (s.setDram m).dram = m := rfl
@[simp] theorem State.setDram_cfg (m : Memory) : (s.setDram m).cfg = s.cfg := rfl
@[simp] theorem State.setDram_draws (m : Memory) : (s.setDram m).draws = s.draws := rfl
@[simp] theorem State.setDram_sched (m : Memory) : (s.setDram m).sched = s.sched := rfl
@[simp] theorem State.setDram_reg (m : Memory) (q : Reg) : (s.setDram m).reg q = s.reg q := rfl
@[simp] theorem State.setDram_ramByte (m : Memory) (x : Word) : (s.setDram m).ramByte x = s.ramByte x := rfl
@[simp] theorem State.setDram_ramWord (m : Memory) (x : Word) : (s.setDram m).ramWord x = s.ramWord x := rfl

@[simp] theorem State.draw_regs : s.draw.regs = s.regs := rfl
@[simp] theorem State.draw_pc : s.draw.pc = s.pc := rfl
@[simp] theorem State.draw_lr : s.draw.lr = s.lr := rfl
@[simp] theorem State.draw_flags : s.draw.flags = s.flags := rfl
@[simp] theorem State.draw_mem : s.draw.mem = s.mem := rfl
@[simp] theorem State.draw_led : s.draw.led = s.led := rfl
@[simp] theorem State.draw_uart : s.draw.uart = s.uart := rfl
@[simp] theorem State.draw_timer : s.draw.timer = s.timer := rfl
@[simp] theorem State.draw_voices : s.draw.voices = s.voices := rfl
@[simp] theorem State.draw_dma : s.draw.dma = s.dma := rfl
@[simp] theorem State.draw_dram : s.draw.dram = s.dram := rfl
@[simp] theorem State.draw_cfg : s.draw.cfg = s.cfg := rfl
@[simp] theorem State.draw_draws : s.draw.draws = s.draws + 1 := rfl
@[simp] theorem State.draw_sched : s.draw.sched = s.sched := rfl
@[simp] theorem State.draw_reg (q : Reg) : s.draw.reg q = s.reg q := rfl
@[simp] theorem State.draw_ramByte (x : Word) : s.draw.ramByte x = s.ramByte x := rfl
@[simp] theorem State.draw_ramWord (x : Word) : s.draw.ramWord x = s.ramWord x := rfl

@[simp] theorem State.setSched_regs (l : List Turn) : (s.setSched l).regs = s.regs := rfl
@[simp] theorem State.setSched_pc (l : List Turn) : (s.setSched l).pc = s.pc := rfl
@[simp] theorem State.setSched_lr (l : List Turn) : (s.setSched l).lr = s.lr := rfl
@[simp] theorem State.setSched_flags (l : List Turn) : (s.setSched l).flags = s.flags := rfl
@[simp] theorem State.setSched_mem (l : List Turn) : (s.setSched l).mem = s.mem := rfl
@[simp] theorem State.setSched_led (l : List Turn) : (s.setSched l).led = s.led := rfl
@[simp] theorem State.setSched_uart (l : List Turn) : (s.setSched l).uart = s.uart := rfl
@[simp] theorem State.setSched_timer (l : List Turn) : (s.setSched l).timer = s.timer := rfl
@[simp] theorem State.setSched_voices (l : List Turn) : (s.setSched l).voices = s.voices := rfl
@[simp] theorem State.setSched_dma (l : List Turn) : (s.setSched l).dma = s.dma := rfl
@[simp] theorem State.setSched_dram (l : List Turn) : (s.setSched l).dram = s.dram := rfl
@[simp] theorem State.setSched_cfg (l : List Turn) : (s.setSched l).cfg = s.cfg := rfl
@[simp] theorem State.setSched_draws (l : List Turn) : (s.setSched l).draws = s.draws := rfl
@[simp] theorem State.setSched_sched (l : List Turn) : (s.setSched l).sched = l := rfl
@[simp] theorem State.setSched_reg (l : List Turn) (q : Reg) : (s.setSched l).reg q = s.reg q := rfl
@[simp] theorem State.setSched_ramByte (l : List Turn) (x : Word) : (s.setSched l).ramByte x = s.ramByte x := rfl
@[simp] theorem State.setSched_ramWord (l : List Turn) (x : Word) : (s.setSched l).ramWord x = s.ramWord x := rfl

/-- The parameters do not change when a byte is stored. -/
@[simp] theorem State.storeByte_cfg (a : Word) (b : Byte) : (s.storeByte a b).cfg = s.cfg := rfl

/-- A stored byte is a change of the local RAM only. -/
theorem State.storeByte_eq (a : Word) (b : Byte) :
    s.storeByte a b = s.setMem (s.mem.store a.toNat b) := rfl

/-- A stored word is a change of the local RAM only. -/
theorem State.storeWord_eq (a v : Word) :
    s.storeWord a v = s.setMem ((s.mem.store a.toNat (firstByte s.cfg.byteOrder v)).store (a + 1#16).toNat
      (secondByte s.cfg.byteOrder v)) := rfl

end Sys2Proof.Machine
end

