-- ==== Sys2Proof/Laws/Memory.lean ====
section
/-! SUPPORT. The laws of a memory: a byte written reads back, every other byte reads as before, and a write keeps
the canonical form and the bound on the addresses. -/

namespace Sys2Proof.Machine

theorem Memory.lookup_store_same (m : Memory) (a : Nat) (b : Byte) : (m.store a b).lookup a = some b := by
  induction m with
  | nil => simp [Memory.store, Memory.lookup]
  | cons cell m ih =>
    obtain ⟨a', b'⟩ := cell
    rw [Memory.store]
    split
    · simp [Memory.lookup]
    · split
      · simp [Memory.lookup]
      · simp [Memory.lookup, *]

theorem Memory.lookup_store_other (m : Memory) (a c : Nat) (b : Byte) (h : c ≠ a) :
    (m.store a b).lookup c = m.lookup c := by
  induction m with
  | nil => simp [Memory.store, Memory.lookup, h]
  | cons cell m ih =>
    obtain ⟨a', b'⟩ := cell
    rw [Memory.store]
    split
    · simp [Memory.lookup, h]
    · split
      · subst_vars
        simp [Memory.lookup, h]
      · simp [Memory.lookup, ih]

/-- Reading a memory after one write. -/
theorem Memory.lookup_store (m : Memory) (a c : Nat) (b : Byte) :
    (m.store a b).lookup c = if c = a then some b else m.lookup c := by
  split
  · subst_vars
    exact m.lookup_store_same _ b
  · exact m.lookup_store_other a c b ‹_›

theorem Memory.risingAbove_mono {lo lo' : Nat} {m : Memory} (hlo : lo' ≤ lo)
    (h : Memory.risingAbove lo m = true) : Memory.risingAbove lo' m = true := by
  cases m with
  | nil => rfl
  | cons cell m =>
    simp only [Memory.risingAbove, Bool.and_eq_true, decide_eq_true_eq] at h ⊢
    exact ⟨by omega, h.2⟩

theorem Memory.risingAbove_store {lo a : Nat} {b : Byte} (hlo : lo < a) {m : Memory}
    (h : Memory.risingAbove lo m = true) : Memory.risingAbove lo (m.store a b) = true := by
  induction m generalizing lo with
  | nil => simpa [Memory.store, Memory.risingAbove] using hlo
  | cons cell m ih =>
    obtain ⟨a', b'⟩ := cell
    simp only [Memory.risingAbove, Bool.and_eq_true, decide_eq_true_eq] at h
    rw [Memory.store]
    split
    · simp [Memory.risingAbove, *]
    · split
      · subst_vars
        simp [Memory.risingAbove, *]
      · simp only [Memory.risingAbove, Bool.and_eq_true, decide_eq_true_eq]
        exact ⟨h.1, ih (by omega) h.2⟩

/-- A write keeps the canonical form. -/
theorem Memory.store_wf {m : Memory} (a : Nat) (b : Byte) (h : m.wf = true) : (m.store a b).wf = true := by
  cases m with
  | nil => rfl
  | cons cell m =>
    obtain ⟨a', b'⟩ := cell
    simp only [Memory.wf] at h
    rw [Memory.store]
    split
    · simp [Memory.wf, Memory.risingAbove, *]
    · split
      · subst_vars
        simpa [Memory.wf] using h
      · simp only [Memory.wf]
        exact Memory.risingAbove_store (by omega) h

/-- A write below the bound keeps every listed address below it. -/
theorem Memory.store_below {m : Memory} {n a : Nat} (b : Byte) (ha : a < n) (h : m.below n = true) :
    (m.store a b).below n = true := by
  induction m with
  | nil => simpa [Memory.store, Memory.below] using ha
  | cons cell m ih =>
    obtain ⟨a', b'⟩ := cell
    simp only [Memory.below, List.all_cons, Bool.and_eq_true, decide_eq_true_eq] at h ih
    rw [Memory.store]
    split
    · simp only [Memory.below, List.all_cons, Bool.and_eq_true, decide_eq_true_eq]
      exact ⟨ha, h.1, h.2⟩
    · split
      · simp only [Memory.below, List.all_cons, Bool.and_eq_true, decide_eq_true_eq]
        exact ⟨ha, h.2⟩
      · simp only [Memory.below, List.all_cons, Bool.and_eq_true, decide_eq_true_eq]
        exact ⟨h.1, ih h.2⟩

/-- A byte of RAM after one byte is stored. -/
theorem State.storeByte_ramByte (s : State) (a c : Word) (b : Byte) :
    (s.storeByte a b).ramByte c = if c = a then b else s.ramByte c := by
  simp only [State.storeByte, State.ramByte, State.setMem_mem, Memory.lookup_store, BitVec.toNat_inj]
  split <;> rfl

/-- A byte of RAM after a word is stored. -/
theorem State.storeWord_ramByte (s : State) (a c v : Word) :
    (s.storeWord a v).ramByte c =
      if c = a + 1#16 then secondByte s.cfg.byteOrder v
      else if c = a then firstByte s.cfg.byteOrder v else s.ramByte c := by
  simp only [State.storeWord, State.storeByte_ramByte]

/-- A byte of external DRAM after one byte is stored there. -/
theorem State.setDram_dramByte (s : State) (a c : Nat) (b : Byte) :
    (s.setDram (s.dram.store a b)).dramByte c = if c = a then b else s.dramByte c := by
  simp only [State.dramByte, State.setDram_dram, Memory.lookup_store]
  split <;> rfl

/-- The memories of the reset state are canonical. -/
theorem State.resetWith_mem_wf (c : Config) :
    (State.resetWith c).mem.wf = true ∧ (State.resetWith c).dram.wf = true := ⟨rfl, rfl⟩

/-- The local RAM of `State.reset` is canonical. -/
theorem State.reset_mem_wf : State.reset.mem.wf = true := rfl

/-- The two bytes of a word make the word again. -/
theorem wordOf_bytes (o : ByteOrder) (v : Word) : wordOf o (firstByte o v) (secondByte o v) = v := by
  have h : v.extractLsb' 8 8 ++ v.extractLsb' 0 8 = v := by
    apply BitVec.eq_of_getLsbD_eq
    intro i hi
    simp only [BitVec.getLsbD_append, BitVec.getLsbD_extractLsb']
    rcases Nat.lt_or_ge i 8 with h | h
    · simp [h]
    · simp [show ¬ i < 8 by omega, show i - 8 < 8 by omega, show 8 + (i - 8) = i by omega]
  cases o <;> exact h

end Sys2Proof.Machine
end

