-- ==== Sys2Proof/Laws/Access.lean ====
section
/-! SUPPORT. What each shared operation over memory and devices can answer, said once. -/

namespace Sys2Proof.Machine

variable {α β : Type} {s t : State}

@[simp] theorem andThen_next (a : α) (k : α → Result β) : andThen (.next a) k = k a := rfl

@[simp] theorem andThen_fault (f : Fault) (k : α → Result β) : andThen (.fault f) k = .fault f := rfl

@[simp] theorem andThen_refused (r : Refusal) (k : α → Result β) : andThen (.refused r) k = .refused r := rfl

/-- A sequence answers a value exactly when both parts do. -/
theorem andThen_eq_next {o : Result α} {k : α → Result β} {b : β} :
    andThen o k = .next b ↔ ∃ a, o = .next a ∧ k a = .next b := by
  cases o <;> simp [andThen]

/-- An access that passes the checks for RAM is aligned and below RAM_LIMIT and the peripheral region. -/
theorem locate_ram {addr : Word} {n : Size} (h : locate s addr n = .next .ram) :
    ¬ (n = .word ∧ addr.toNat % 2 = 1) ∧ addr.toNat < 0xFF00 ∧ addr.toNat < s.cfg.ramLimit.toNat := by
  unfold locate at h
  split at h
  · cases h
  · split at h
    · obtain ⟨p, -, hp⟩ := andThen_eq_next.mp h
      cases hp
    · split at h
      · cases h
      · exact ⟨‹_›, by omega, by omega⟩

/-- An aligned access below RAM_LIMIT and the peripheral region is one to RAM. -/
theorem locate_of_ram {addr : Word} {n : Size} (ha : n = .word → addr.toNat % 2 = 0)
    (hp : addr.toNat < 0xFF00) (hr : addr.toNat < s.cfg.ramLimit.toNat) : locate s addr n = .next .ram := by
  unfold locate
  rw [if_neg (by rintro ⟨h, h'⟩; have := ha h; omega), if_neg (by omega), if_neg (by omega)]

/-- An access that reaches a device register is at its own address, in its stated size. -/
theorem locate_device {addr : Word} {n : Size} {p : Periph} (h : locate s addr n = .next (.device p)) :
    addr = periphBase p ∧ n = periphSize p := by
  unfold locate at h
  split at h
  · cases h
  · split at h
    · obtain ⟨q, hq, he⟩ := andThen_eq_next.mp h
      cases he
      unfold selectPeriph at hq
      split at hq
      · cases hq
      · split at hq
        · cases hq
          assumption
        · cases hq
    · split at h <;> cases h

/-- The checks of an access to a register at its own address and in its own size are passed. -/
theorem locate_of_device (p : Periph) : locate s (periphBase p) (periphSize p) = .next (.device p) := by
  cases p <;> rfl

/-- A read that completes read RAM, and changed nothing, or a device register. -/
theorem memRead_eq_next {addr : Word} {n : Size} {vt : Word × State} (h : memRead s addr n = .next vt) :
    (locate s addr n = .next .ram ∧ vt = (s.ramRead addr n, s)) ∨
    ∃ p, locate s addr n = .next (.device p) ∧ readPeriph s p = .next vt := by
  obtain ⟨place, hl, hk⟩ := andThen_eq_next.mp h
  cases place with
  | ram => cases hk; exact .inl ⟨hl, rfl⟩
  | device p => exact .inr ⟨p, hl, hk⟩

/-- A write that completes wrote RAM or a device register. -/
theorem memWrite_eq_next {addr v : Word} {n : Size} (h : memWrite s addr n v = .next t) :
    (locate s addr n = .next .ram ∧ t = s.ramWrite addr n v) ∨
    ∃ p, locate s addr n = .next (.device p) ∧ writePeriph s p v = .next t := by
  obtain ⟨place, hl, hk⟩ := andThen_eq_next.mp h
  cases place with
  | ram => cases hk; exact .inl ⟨hl, rfl⟩
  | device p => exact .inr ⟨p, hl, hk⟩

/-- The state after a byte was taken from the Rx FIFO, or found missing. -/
theorem uartTake_state (s : State) :
    (∃ b rest, s.uart.rx = b :: rest ∧ uartTake s = (b, s.setUart { s.uart with rx := rest })) ∨
    (s.uart.rx = [] ∧ uartTake s = (Config.freeByte s.draws, s.draw)) := by
  unfold uartTake
  cases h : s.uart.rx with
  | nil => exact .inr ⟨rfl, rfl⟩
  | cons b rest => exact .inl ⟨b, rest, rfl, rfl⟩

/-- A register read that completes leaves the state, takes the head of the Rx FIFO, or draws one free value. -/
theorem readPeriph_state {p : Periph} {vt : Word × State} (h : readPeriph s p = .next vt) :
    vt.2 = s ∨ vt.2 = s.draw ∨
    ∃ b rest, s.uart.rx = b :: rest ∧ vt.2 = s.setUart { s.uart with rx := rest } := by
  cases p <;> simp only [readPeriph, Host.Outcome.next.injEq, reduceCtorEq] at h <;> subst h
  case ledData => exact .inl rfl
  case uartData =>
    rcases uartTake_state s with ⟨b, rest, hr, he⟩ | ⟨-, he⟩
    · exact .inr (.inr ⟨b, rest, hr, by simp [he]⟩)
    · exact .inr (.inl (by simp [he]))
  case uartStatus => exact .inr (.inl rfl)
  case timerData => exact .inl rfl
  case dmaControl => exact .inr (.inl rfl)

/-- Scrambling a FIFO keeps its length. -/
@[simp] theorem scramble_length (n : Nat) (q : List Byte) : (scramble n q).length = q.length := by
  induction q with
  | nil => rfl
  | cons b q ih => simp [scramble, ih]

/-- A DMA start that completes found an idle engine and a transfer with a meaning. -/
theorem dmaStart_eq_next {v : Word} (h : dmaStart s v = .next t) :
    v.extractLsb' 3 13 = 0#13 ∧ (v.extractLsb' 0 3).toNat < 2 ∧ s.dma.busy = false ∧ dmaAcceptable s = true ∧
    t = s.setDma { s.dma with kind := v.extractLsb' 0 3, busy := true, moved := [] } := by
  unfold dmaStart at h
  split at h
  · cases h
  · rename_i hv
    push Not at hv
    split at h
    · cases h
    · split at h
      · cases h
        exact ⟨hv.1, hv.2, by simpa using ‹¬ s.dma.busy = true›, ‹_›, rfl⟩
      · cases h

/-- A write of a DMA parameter register that completes found an idle engine. -/
theorem dmaParameter_eq_next {addr : Word} {d : Dma} (h : dmaParameter s addr d = .next t) :
    s.dma.busy = false ∧ t = s.setDma d := by
  unfold dmaParameter at h
  split at h
  · cases h
  · cases h
    exact ⟨by simpa using ‹¬ s.dma.busy = true›, rfl⟩

/-- A register write that completes changes one device: the LED latch, the UART (not what it has sent), the timer, one
voice, or the idle DMA engine. -/
theorem writePeriph_eq_next {p : Periph} {v : Word} (h : writePeriph s p v = .next t) :
    (p = .ledData ∧ t = s.setLed (v.extractLsb' 0 8)) ∨
    (p = .uartData ∧ t = uartSend s (v.extractLsb' 0 8)) ∨
    (p = .uartBaud ∧ t = s.setUart { s.uart with baud := v }) ∨
    (p = .timerData ∧ t = s.setTimer v) ∨
    (p = .soundData ∧ t = s.setVoice (v.extractLsb' 14 2) (v.extractLsb' 0 14)) ∨
    (p = .dmaControl ∧ dmaStart s v = .next t) ∨
    (p = .dmaLocal ∧ dmaParameter s 0xFF0C#16 { s.dma with localAddr := v } = .next t) ∨
    (p = .dmaRemote ∧ dmaParameter s 0xFF0E#16 { s.dma with remote := v, remoteLow := 0 } = .next t) ∨
    (p = .dmaCount ∧ dmaParameter s 0xFF10#16 { s.dma with count := v } = .next t) := by
  cases p <;> simp_all [writePeriph]

/-- A word that is fetched lies in RAM at an even address. -/
theorem fetchWord_eq_next {a w : Word} (h : fetchWord s a = .next w) :
    a.toNat % 2 = 0 ∧ a.toNat < 0xFF00 ∧ a.toNat < s.cfg.ramLimit.toNat ∧ w = s.ramWord a := by
  unfold fetchWord at h
  split at h
  · cases h
  · split at h
    · cases h
    · split at h
      · cases h
      · cases h
        exact ⟨by omega, by omega, by omega, rfl⟩

/-- A word in RAM at an even address is fetched. -/
theorem fetchWord_of_ram {a : Word} (ha : a.toNat % 2 = 0) (hp : a.toNat < 0xFF00)
    (hr : a.toNat < s.cfg.ramLimit.toNat) : fetchWord s a = .next (s.ramWord a) := by
  unfold fetchWord
  rw [if_neg (by omega), if_neg (by omega), if_neg (by omega)]

/-- A DMA move does nothing, moves one byte, or moves the last one and ends the transfer. -/
theorem dmaStep_cases (i : Nat) (s : State) :
    dmaStep i s = s ∨
    (s.dma.busy = true ∧ i < s.dma.count.toNat ∧ i ∉ s.dma.moved ∧
      ((s.dma.moved.length + 1 = s.dma.count.toNat ∧ dmaStep i s = dmaFinish (dmaCopy s i)) ∨
       (s.dma.moved.length + 1 ≠ s.dma.count.toNat ∧
        dmaStep i s = (dmaCopy s i).setDma { s.dma with moved := i :: s.dma.moved }))) := by
  by_cases hc : s.dma.busy = true ∧ i < s.dma.count.toNat ∧ s.dma.moved.contains i = false
  · refine .inr ⟨hc.1, hc.2.1, by simpa using hc.2.2, ?_⟩
    by_cases hl : s.dma.moved.length + 1 = s.dma.count.toNat
    · exact .inl ⟨hl, by simp only [dmaStep, if_pos hc, if_pos hl]⟩
    · exact .inr ⟨hl, by simp only [dmaStep, if_pos hc, if_neg hl]⟩
  · exact .inl (by simp only [dmaStep, if_neg hc])

/-- A copied byte changes the external DRAM or the local RAM and nothing else. -/
theorem dmaCopy_cases (s : State) (i : Nat) :
    (s.dma.kind = 0#3 ∧
      dmaCopy s i = s.setDram (s.dram.store (dmaExternal s + i) (s.ramByte (dmaLocalByte s i)))) ∨
    (s.dma.kind ≠ 0#3 ∧
      dmaCopy s i = s.setMem (s.mem.store (dmaLocalByte s i).toNat (s.dramByte (dmaExternal s + i)))) := by
  unfold dmaCopy
  split
  · exact .inl ⟨‹_›, rfl⟩
  · exact .inr ⟨‹_›, rfl⟩

end Sys2Proof.Machine
end

