-- ==== Sys2Proof/Laws/Meanings.lean ====
section
/-! SUPPORT. What each operation shared by several meanings can answer, said once: if it answers a next state, then
this one. An operation whose definition is one next state (addOp, subOp, cmpOp, movOp, movByte, logicResult, testOp) is
its own law. -/

namespace Sys2Proof.Machine

variable {s t : State}

theorem pushValue_eq_next {sp : Reg} {v next : Word} (h : pushValue sp v next s = .next t) :
    ∃ u, memWrite s (s.reg sp - 2#16) .word v = .next u ∧ t = (u.setReg sp (s.reg sp - 2#16)).setPc next := by
  obtain ⟨u, hu, he⟩ := andThen_eq_next.mp h
  cases he
  exact ⟨u, hu, rfl⟩

theorem popInto_eq_next {rD sp : Reg} (h : popInto rD sp s = .next t) :
    ∃ vt, memRead s (s.reg sp) .word = .next vt ∧
      t = ((vt.2.setReg rD vt.1).setReg sp (s.reg sp + 2#16)).setPc s.afterOne := by
  obtain ⟨vt, hv, he⟩ := andThen_eq_next.mp h
  cases he
  exact ⟨vt, hv, rfl⟩

theorem loadWord_eq_next {rD : Reg} {m : AddrMode} (h : loadWord rD m s = .next t) :
    ∃ vt, memRead s (m.address s) .word = .next vt ∧ t = (vt.2.setReg rD vt.1).setPc (m.nextPc s) := by
  obtain ⟨vt, hv, he⟩ := andThen_eq_next.mp h
  cases he
  exact ⟨vt, hv, rfl⟩

theorem loadByte_eq_next {rD : Reg} {m : AddrMode} (h : loadByte rD m s = .next t) :
    ∃ vt, memRead s (m.address s) .byte = .next vt ∧
      t = (vt.2.setReg rD (extendByte s.cfg.ldbExtension (vt.1.extractLsb' 0 8))).setPc (m.nextPc s) := by
  obtain ⟨vt, hv, he⟩ := andThen_eq_next.mp h
  cases he
  exact ⟨vt, hv, rfl⟩

theorem storeTo_eq_next {n : Size} {rD : Reg} {m : AddrMode} (h : storeTo n rD m s = .next t) :
    ∃ u, memWrite s (m.address s) n (s.reg rD) = .next u ∧ t = u.setPc (m.nextPc s) := by
  obtain ⟨u, hu, he⟩ := andThen_eq_next.mp h
  cases he
  exact ⟨u, hu, rfl⟩

theorem transfer_eq_next {target : Word} (h : transfer target s = .next t) :
    target.toNat % 2 = 0 ∧ t = s.setPc target := by
  unfold transfer at h
  split at h
  · cases h
  · cases h
    exact ⟨by omega, rfl⟩

theorem jumpOp_eq_next {cond : Cond} {op : Operand} (h : jumpOp cond op s = .next t) :
    (s.holds cond = true ∧ (op.value s).toNat % 2 = 0 ∧ t = s.setPc (op.value s)) ∨
    (s.holds cond ≠ true ∧ t = s.setPc (op.nextPc s)) := by
  unfold jumpOp at h
  split at h
  · exact .inl ⟨‹_›, transfer_eq_next h⟩
  · cases h
    exact .inr ⟨‹_›, rfl⟩

theorem callOp_eq_next {cond : Cond} {op : Operand} (h : callOp cond op s = .next t) :
    (s.holds cond = true ∧ (op.value s).toNat % 2 = 0 ∧ t = (s.setLr (op.nextPc s)).setPc (op.value s)) ∨
    (s.holds cond ≠ true ∧ t = s.setPc (op.nextPc s)) := by
  unfold callOp at h
  split at h
  · exact .inl ⟨‹_›, transfer_eq_next h⟩
  · cases h
    exact .inr ⟨‹_›, rfl⟩

theorem withCount_eq_next {op : Operand} {k : Nat → Result State} (h : withCount s op k = .next t) :
    ∃ n, shiftCount s.cfg (op.value s).toNat = some n ∧ k n = .next t := by
  unfold withCount at h
  split at h
  · exact ⟨_, ‹_›, h⟩
  · cases h

theorem shiftOp_eq_next {f : Word → Nat → Word} {rD : Reg} {op : Operand} (h : shiftOp f rD op s = .next t) :
    ∃ n, shiftCount s.cfg (op.value s).toNat = some n ∧
      t = (shiftResult rD (f (s.reg rD) n) (Config.shiftCarry s.draws) (op.nextPc s) s).draw := by
  obtain ⟨n, hn, hk⟩ := withCount_eq_next h
  cases hk
  exact ⟨n, hn, rfl⟩

theorem rolOp_eq_next {rD : Reg} {op : Operand} (h : rolOp rD op s = .next t) :
    ∃ n, shiftCount s.cfg (op.value s).toNat = some n ∧
      t = shiftResult rD (rotate16 (s.reg rD) n) false (op.nextPc s) s := by
  obtain ⟨n, hn, hk⟩ := withCount_eq_next h
  cases hk
  exact ⟨n, hn, rfl⟩

theorem rclOp_eq_next {rD : Reg} {op : Operand} (h : rclOp rD op s = .next t) :
    ∃ n, shiftCount s.cfg (op.value s).toNat = some n ∧
      t = shiftResult rD ((rclRing s.flags.c (s.reg rD) n).extractLsb' 0 16)
        ((rclRing s.flags.c (s.reg rD) n).getLsbD 16) (op.nextPc s) s := by
  obtain ⟨n, hn, hk⟩ := withCount_eq_next h
  cases hk
  exact ⟨n, hn, rfl⟩

/-- A count below 16 is taken as it is. -/
theorem shiftCount_of_lt {c : Config} {n : Nat} (h : n < 16) : shiftCount c n = some n := by
  simp [shiftCount, h]

/-- A step is a move of the core, after a new round is begun or its turn is taken off the list, or of the agent whose
turn it is. -/
theorem step_cases (s : State) :
    (s.sched = [] ∧ step s = coreStep s.newRound) ∨
    (∃ rest, s.sched = .core :: rest ∧ step s = coreStep (s.setSched rest)) ∨
    ∃ turn rest, turn ≠ .core ∧ s.sched = turn :: rest ∧ step s = .next (agentStep turn (s.setSched rest)) := by
  unfold step
  cases h : s.sched with
  | nil => exact .inl ⟨rfl, rfl⟩
  | cons turn rest =>
    refine .inr ?_
    cases turn
    case core => exact .inl ⟨rest, rfl, rfl⟩
    all_goals exact .inr ⟨_, rest, by simp, rfl, rfl⟩

/-- A move of the core that completes executed the instruction it fetched. -/
theorem coreStep_eq_next (h : coreStep s = .next t) : ∃ i, fetchInstr s = .next i ∧ exec i s = .next t :=
  andThen_eq_next.mp h

/-- A read of a coprocessor register gives the flags, or a free value and one draw. -/
theorem readCr_cases (n : CrNum) :
    (n = 0#4 ∧ readCr s n = (s.flags.toWord, s)) ∨ (n ≠ 0#4 ∧ readCr s n = (Config.freeWord s.draws, s.draw)) := by
  unfold readCr
  split
  · exact .inl ⟨‹_›, rfl⟩
  · exact .inr ⟨‹_›, rfl⟩

/-- A fetched instruction is what its words decode to; the second word was fetched if bit 15 of the first is set. -/
theorem fetchInstr_eq_next {i : Instr} (h : fetchInstr s = .next i) :
    fetchWord s s.pc = .next (s.ramWord s.pc) ∧
    ((immFlag (s.ramWord s.pc) = false ∧ decode (s.ramWord s.pc) 0#16 = .ok i) ∨
     (immFlag (s.ramWord s.pc) = true ∧ fetchWord s (s.pc + 2#16) = .next (s.ramWord (s.pc + 2#16)) ∧
       decode (s.ramWord s.pc) (s.ramWord (s.pc + 2#16)) = .ok i)) := by
  have hd : ∀ {w imm : Word} {j : Instr}, decoded w imm = .next j → decode w imm = .ok j := by
    intro w imm j hj
    unfold decoded at hj
    split at hj <;> cases hj
    assumption
  obtain ⟨w, hw, h⟩ := andThen_eq_next.mp h
  obtain ⟨j, hj, h⟩ := andThen_eq_next.mp h
  obtain rfl := (fetchWord_eq_next hw).2.2.2
  refine ⟨hw, ?_⟩
  split at h
  · cases h
    exact .inl ⟨‹_›, hd hj⟩
  · obtain ⟨imm, hi, h⟩ := andThen_eq_next.mp h
    obtain rfl := (fetchWord_eq_next hi).2.2.2
    exact .inr ⟨by simp_all, hi, hd h⟩

end Sys2Proof.Machine
end

