-- ==== Sys2Proof/Laws/Agents.lean ====
section
/-! SUPPORT. The laws of the turns: what a new round changes, which byte the DMA engine takes when it may choose, and
what a move of the core leaves of the things the other agents work on. -/

namespace Sys2Proof.Machine

/-! ## A new round of turns changes the turns to come and the count of draws only -/

section

variable {s : State}

@[simp] theorem State.newRound_regs : s.newRound.regs = s.regs := rfl
@[simp] theorem State.newRound_pc : s.newRound.pc = s.pc := rfl
@[simp] theorem State.newRound_lr : s.newRound.lr = s.lr := rfl
@[simp] theorem State.newRound_flags : s.newRound.flags = s.flags := rfl
@[simp] theorem State.newRound_mem : s.newRound.mem = s.mem := rfl
@[simp] theorem State.newRound_led : s.newRound.led = s.led := rfl
@[simp] theorem State.newRound_uart : s.newRound.uart = s.uart := rfl
@[simp] theorem State.newRound_timer : s.newRound.timer = s.timer := rfl
@[simp] theorem State.newRound_voices : s.newRound.voices = s.voices := rfl
@[simp] theorem State.newRound_dma : s.newRound.dma = s.dma := rfl
@[simp] theorem State.newRound_dram : s.newRound.dram = s.dram := rfl
@[simp] theorem State.newRound_cfg : s.newRound.cfg = s.cfg := rfl
@[simp] theorem State.newRound_draws : s.newRound.draws = s.draws + 4 := rfl
@[simp] theorem State.newRound_sched : s.newRound.sched = roundOfTurns s.draws := rfl
@[simp] theorem State.newRound_reg (q : Reg) : s.newRound.reg q = s.reg q := rfl
@[simp] theorem State.newRound_ramByte (x : Word) : s.newRound.ramByte x = s.ramByte x := rfl
@[simp] theorem State.newRound_ramWord (x : Word) : s.newRound.ramWord x = s.ramWord x := rfl
@[simp] theorem fetchInstr_newRound : fetchInstr s.newRound = fetchInstr s := rfl

end

section

variable {s t : State}

/-- A byte is still to move exactly when it is one of the transfer and has not been moved. -/
theorem mem_dmaRemaining {i : Nat} : i ∈ dmaRemaining s ↔ i < s.dma.count.toNat ∧ i ∉ s.dma.moved := by
  simp [dmaRemaining]

/-- The byte the engine takes is one of those still to move, if there is one. -/
theorem dmaPick_mem (h : dmaRemaining s ≠ []) : dmaPick s ∈ dmaRemaining s := by
  have hl := Nat.mod_lt (Config.freeIndex s.draws) (List.length_pos_iff.mpr h)
  rw [dmaPick, List.getD_eq_getElem _ _ hl]
  exact List.getElem_mem hl

/-- The DMA engine's own turn: nothing while it is idle, else one draw and a move of the byte it takes. -/
theorem dmaAnyStep_cases (s : State) :
    (s.dma.busy = false ∧ dmaAnyStep s = s) ∨ (s.dma.busy = true ∧ dmaAnyStep s = dmaStep (dmaPick s) s.draw) := by
  cases h : s.dma.busy
  · exact .inl ⟨rfl, by simp [dmaAnyStep, h]⟩
  · exact .inr ⟨rfl, by simp [dmaAnyStep, h]⟩

/-- A DMA move leaves the turns to come. -/
@[simp] theorem dmaStep_sched (i : Nat) (s : State) : (dmaStep i s).sched = s.sched := by
  rcases dmaStep_cases i s with h | ⟨-, -, -, ⟨-, h⟩ | ⟨-, h⟩⟩ <;>
    rcases dmaCopy_cases s i with ⟨-, hc⟩ | ⟨-, hc⟩ <;> simp [h, hc, dmaFinish]

/-- A move of an agent other than the core leaves the turns to come. -/
@[simp] theorem agentStep_sched (turn : Turn) (s : State) : (agentStep turn s).sched = s.sched := by
  cases turn <;> simp only [agentStep, dmaStep_sched]
  case timerTick => unfold timerStep; split <;> rfl
  case uartTransmit => unfold transmitStep; split <;> rfl
  case uartReceive => unfold receiveStep; split <;> rfl
  case dmaAny => rcases dmaAnyStep_cases s with ⟨-, h⟩ | ⟨-, h⟩ <;> simp [h]

/-- What a move of the core leaves of the things the other agents work on: the turns to come, the bytes sent, at
least as many bytes to send, and a running transfer. -/
structure LeavesAgents (s t : State) : Prop where
  sched : t.sched = s.sched
  sent : t.uart.sent = s.uart.sent
  queued : s.uart.tx.length ≤ t.uart.tx.length
  transfer : s.dma.busy = true → t.dma = s.dma

/-- A read of memory or of a register of a device leaves the agents. -/
theorem memRead_leavesAgents {a : Word} {n : Size} {vt : Word × State} (h : memRead s a n = .next vt) :
    LeavesAgents s vt.2 := by
  rcases memRead_eq_next h with ⟨-, rfl⟩ | ⟨p, -, hp⟩
  · exact ⟨rfl, rfl, le_rfl, fun _ => rfl⟩
  · rcases readPeriph_state hp with h | h | ⟨b, rest, -, h⟩ <;> rw [h] <;> exact ⟨rfl, rfl, le_rfl, fun _ => rfl⟩

/-- A write of memory or of a register of a device leaves the agents. -/
theorem memWrite_leavesAgents {a v : Word} {n : Size} (h : memWrite s a n v = .next t) : LeavesAgents s t := by
  rcases memWrite_eq_next h with ⟨-, rfl⟩ | ⟨p, -, hp⟩
  · cases n <;> exact ⟨rfl, rfl, le_rfl, fun _ => rfl⟩
  · cases p
    case uartStatus => cases hp
    case uartData =>
      cases hp
      unfold uartSend
      split <;> exact ⟨rfl, rfl, by simp, fun _ => rfl⟩
    case dmaControl =>
      obtain ⟨-, -, hb, -, rfl⟩ := dmaStart_eq_next hp
      exact ⟨rfl, rfl, le_rfl, fun hb' => absurd hb' (by simp [hb])⟩
    case dmaLocal | dmaRemote | dmaCount =>
      obtain ⟨hb, rfl⟩ := dmaParameter_eq_next hp
      exact ⟨rfl, rfl, le_rfl, fun hb' => absurd hb' (by simp [hb])⟩
    all_goals
      cases hp
      exact ⟨rfl, rfl, le_rfl, fun _ => rfl⟩

/-- A state with the same turns, UART and DMA engine. -/
theorem LeavesAgents.of_same (h1 : t.sched = s.sched) (h2 : t.uart = s.uart) (h3 : t.dma = s.dma) : LeavesAgents s t :=
  ⟨h1, by rw [h2], by rw [h2], fun _ => h3⟩

/-- What follows changes none of the turns, the UART and the DMA engine. -/
theorem LeavesAgents.trans {u : State} (h : LeavesAgents s t) (h1 : u.sched = t.sched) (h2 : u.uart = t.uart)
    (h3 : u.dma = t.dma) : LeavesAgents s u :=
  ⟨h1.trans h.sched, by rw [h2, h.sent], by rw [h2]; exact h.queued, fun hb => h3.trans (h.transfer hb)⟩

theorem pushValue_leavesAgents {sp : Reg} {v next : Word} (h : pushValue sp v next s = .next t) : LeavesAgents s t := by
  obtain ⟨u, hu, rfl⟩ := pushValue_eq_next h
  exact (memWrite_leavesAgents hu).trans rfl rfl rfl

/-- An instruction that completes leaves what the other agents work on. -/
theorem exec_leavesAgents (i : Instr) (h : exec i s = .next t) : LeavesAgents s t := by
  cases i
  case pushR spn rD =>
    replace h : execPushR spn rD s = .next t := h
    unfold execPushR at h
    split at h
    · cases h
    · exact pushValue_leavesAgents h
  case pushI => exact pushValue_leavesAgents h
  case pushlr => exact pushValue_leavesAgents h
  case pop spn rD =>
    replace h : execPop spn rD s = .next t := h
    unfold execPop at h
    split at h
    · cases h
    · obtain ⟨vt, hv, rfl⟩ := popInto_eq_next h
      exact (memRead_leavesAgents hv).trans rfl rfl rfl
  case ldR | ldA | ldD =>
    obtain ⟨vt, hv, rfl⟩ := loadWord_eq_next h
    exact (memRead_leavesAgents hv).trans rfl rfl rfl
  case ldbR | ldbA | ldbD =>
    obtain ⟨vt, hv, rfl⟩ := loadByte_eq_next h
    exact (memRead_leavesAgents hv).trans rfl rfl rfl
  case stR | stA | stD | stbR | stbA | stbD =>
    obtain ⟨vt, hv, rfl⟩ := storeTo_eq_next h
    exact (memWrite_leavesAgents hv).trans rfl rfl rfl
  case jmpR | jmpI =>
    rcases jumpOp_eq_next h with ⟨-, -, rfl⟩ | ⟨-, rfl⟩ <;> exact .of_same rfl rfl rfl
  case callR | callI =>
    rcases callOp_eq_next h with ⟨-, -, rfl⟩ | ⟨-, rfl⟩ <;> exact .of_same rfl rfl rfl
  case ret => obtain ⟨-, rfl⟩ := transfer_eq_next h; exact .of_same rfl rfl rfl
  case shlRR | shlRI | shrRR | shrRI | sarRR | sarRI =>
    obtain ⟨n, -, rfl⟩ := shiftOp_eq_next h; exact .of_same rfl rfl rfl
  case rolRR | rolRI => obtain ⟨n, -, rfl⟩ := rolOp_eq_next h; exact .of_same rfl rfl rfl
  case rclRR | rclRI => obtain ⟨n, -, rfl⟩ := rclOp_eq_next h; exact .of_same rfl rfl rfl
  case ldcp rD cr =>
    replace h : execLdcp rD cr s = .next t := h
    unfold execLdcp at h
    rcases readCr_cases (s := s) cr with ⟨-, hc⟩ | ⟨-, hc⟩ <;> rw [hc] at h <;> cases h <;> exact .of_same rfl rfl rfl
  all_goals cases h; exact .of_same rfl rfl rfl

/-- A step takes one turn off the list; with none left it begins a new round. -/
theorem step_sched (h : step s = .next t) :
    (s.sched = [] ∧ t.sched = roundOfTurns s.draws) ∨ ∃ turn, s.sched = turn :: t.sched := by
  rcases step_cases s with ⟨hs, hc⟩ | ⟨rest, hs, hc⟩ | ⟨turn, rest, -, hs, hc⟩
  · obtain ⟨i, -, hi⟩ := coreStep_eq_next (hc.symm.trans h)
    exact .inl ⟨hs, (exec_leavesAgents i hi).sched⟩
  · obtain ⟨i, -, hi⟩ := coreStep_eq_next (hc.symm.trans h)
    exact .inr ⟨.core, by rw [hs, (exec_leavesAgents i hi).sched, State.setSched_sched]⟩
  · cases hc.symm.trans h
    exact .inr ⟨turn, by simpa using hs⟩

end

end Sys2Proof.Machine
end

