-- ==== Sys2Proof/Laws/PerInstr.lean ====
section
/-! SUPPORT. A property of every instruction as syntax, one lemma for each constructor (LAWS.json): how long its
encoding is, and that bit 15 of its first word tells whether an immediate word follows (30_encoding.md R80, R83). -/

namespace Sys2Proof.Laws.EncodedLength

/-- The encoding is as long as `byteLength` says, and bit 15 of its first word is set exactly when there is an
immediate word. -/
def Statement (i : Instr) : Prop :=
  2 * (encode i).length = Claims.byteLength i ∧ immFlag (encodeHead i) = (encodeImm i).isSome

/-- A first word of formats RR, RI, U and S has bit 15 of its upper byte. -/
theorem immFlag_headRR (hi : Byte) (rS rD : Reg) : immFlag (headRR hi rS rD) = hi.getLsbD 7 := by
  unfold immFlag headRR
  iterate 3 erw [BitVec.getLsbD_append]
  rfl

/-- A first word of format M has bit 15 of its upper byte. -/
theorem immFlag_headM (hi : Byte) (b d : BitVec 1) (rS rD : Reg) : immFlag (headM hi b d rS rD) = hi.getLsbD 7 := by
  unfold immFlag headM
  iterate 4 erw [BitVec.getLsbD_append]
  rfl

/-- A first word of formats C and P has bit 15 of its upper byte. -/
theorem immFlag_headC (hi : Byte) (cc : BitVec 4) (rD : Reg) : immFlag (headC hi cc rD) = hi.getLsbD 7 := by
  unfold immFlag headC
  iterate 3 erw [BitVec.getLsbD_append]
  rfl

/-- A first word of format B has bit 15 of its upper byte. -/
theorem immFlag_byte (hi lo : Byte) : immFlag (hi ++ lo) = hi.getLsbD 7 := by
  unfold immFlag
  erw [BitVec.getLsbD_append]
  rfl

theorem addRR (rD rS : Reg) : Statement (.addRR rD rS) := ⟨rfl, immFlag_headRR _ _ _⟩

theorem addRI (rD : Reg) (imm : Word) : Statement (.addRI rD imm) := ⟨rfl, immFlag_headRR _ _ _⟩

theorem subRR (rD rS : Reg) : Statement (.subRR rD rS) := ⟨rfl, immFlag_headRR _ _ _⟩

theorem subRI (rD : Reg) (imm : Word) : Statement (.subRI rD imm) := ⟨rfl, immFlag_headRR _ _ _⟩

theorem pushR (spn rD : Reg) : Statement (.pushR spn rD) := ⟨rfl, immFlag_headRR _ _ _⟩

theorem pushI (spn : Reg) (imm : Word) : Statement (.pushI spn imm) := ⟨rfl, immFlag_headRR _ _ _⟩

theorem pop (spn rD : Reg) : Statement (.pop spn rD) := ⟨rfl, immFlag_headRR _ _ _⟩

theorem movB0 (imm8 : Byte) : Statement (.movB0 imm8) := ⟨rfl, immFlag_byte _ _⟩

theorem movB1 (imm8 : Byte) : Statement (.movB1 imm8) := ⟨rfl, immFlag_byte _ _⟩

theorem movB2 (imm8 : Byte) : Statement (.movB2 imm8) := ⟨rfl, immFlag_byte _ _⟩

theorem movB3 (imm8 : Byte) : Statement (.movB3 imm8) := ⟨rfl, immFlag_byte _ _⟩

theorem movB4 (imm8 : Byte) : Statement (.movB4 imm8) := ⟨rfl, immFlag_byte _ _⟩

theorem movB5 (imm8 : Byte) : Statement (.movB5 imm8) := ⟨rfl, immFlag_byte _ _⟩

theorem movB6 (imm8 : Byte) : Statement (.movB6 imm8) := ⟨rfl, immFlag_byte _ _⟩

theorem movB7 (imm8 : Byte) : Statement (.movB7 imm8) := ⟨rfl, immFlag_byte _ _⟩

theorem movRR (rD rS : Reg) : Statement (.movRR rD rS) := ⟨rfl, immFlag_headRR _ _ _⟩

theorem movRI (rD : Reg) (imm : Word) : Statement (.movRI rD imm) := ⟨rfl, immFlag_headRR _ _ _⟩

theorem andRR (rD rS : Reg) : Statement (.andRR rD rS) := ⟨rfl, immFlag_headRR _ _ _⟩

theorem andRI (rD : Reg) (imm : Word) : Statement (.andRI rD imm) := ⟨rfl, immFlag_headRR _ _ _⟩

theorem orRR (rD rS : Reg) : Statement (.orRR rD rS) := ⟨rfl, immFlag_headRR _ _ _⟩

theorem orRI (rD : Reg) (imm : Word) : Statement (.orRI rD imm) := ⟨rfl, immFlag_headRR _ _ _⟩

theorem xorRR (rD rS : Reg) : Statement (.xorRR rD rS) := ⟨rfl, immFlag_headRR _ _ _⟩

theorem xorRI (rD : Reg) (imm : Word) : Statement (.xorRI rD imm) := ⟨rfl, immFlag_headRR _ _ _⟩

theorem not (rD : Reg) : Statement (.not rD) := ⟨rfl, immFlag_headRR _ _ _⟩

theorem neg (rD : Reg) : Statement (.neg rD) := ⟨rfl, immFlag_headRR _ _ _⟩

theorem ldR (rD rS : Reg) : Statement (.ldR rD rS) := ⟨rfl, immFlag_headM _ _ _ _ _⟩

theorem ldA (rD : Reg) (imm : Word) : Statement (.ldA rD imm) := ⟨rfl, immFlag_headM _ _ _ _ _⟩

theorem ldD (rD rS : Reg) (imm : Word) : Statement (.ldD rD rS imm) := ⟨rfl, immFlag_headM _ _ _ _ _⟩

theorem ldbR (rD rS : Reg) : Statement (.ldbR rD rS) := ⟨rfl, immFlag_headM _ _ _ _ _⟩

theorem ldbA (rD : Reg) (imm : Word) : Statement (.ldbA rD imm) := ⟨rfl, immFlag_headM _ _ _ _ _⟩

theorem ldbD (rD rS : Reg) (imm : Word) : Statement (.ldbD rD rS imm) := ⟨rfl, immFlag_headM _ _ _ _ _⟩

theorem stR (rD rS : Reg) : Statement (.stR rD rS) := ⟨rfl, immFlag_headM _ _ _ _ _⟩

theorem stA (rD : Reg) (imm : Word) : Statement (.stA rD imm) := ⟨rfl, immFlag_headM _ _ _ _ _⟩

theorem stD (rD rS : Reg) (imm : Word) : Statement (.stD rD rS imm) := ⟨rfl, immFlag_headM _ _ _ _ _⟩

theorem stbR (rD rS : Reg) : Statement (.stbR rD rS) := ⟨rfl, immFlag_headM _ _ _ _ _⟩

theorem stbA (rD : Reg) (imm : Word) : Statement (.stbA rD imm) := ⟨rfl, immFlag_headM _ _ _ _ _⟩

theorem stbD (rD rS : Reg) (imm : Word) : Statement (.stbD rD rS imm) := ⟨rfl, immFlag_headM _ _ _ _ _⟩

theorem cmpRR (rD rS : Reg) : Statement (.cmpRR rD rS) := ⟨rfl, immFlag_headRR _ _ _⟩

theorem cmpRI (rD : Reg) (imm : Word) : Statement (.cmpRI rD imm) := ⟨rfl, immFlag_headRR _ _ _⟩

theorem jmpR (cond : Cond) (rD : Reg) : Statement (.jmpR cond rD) := ⟨rfl, immFlag_headC _ _ _⟩

theorem jmpI (cond : Cond) (imm : Word) : Statement (.jmpI cond imm) := ⟨rfl, immFlag_headC _ _ _⟩

theorem callR (cond : Cond) (rD : Reg) : Statement (.callR cond rD) := ⟨rfl, immFlag_headC _ _ _⟩

theorem callI (cond : Cond) (imm : Word) : Statement (.callI cond imm) := ⟨rfl, immFlag_headC _ _ _⟩

theorem ret : Statement .ret := ⟨rfl, rfl⟩

theorem shlRR (rD rS : Reg) : Statement (.shlRR rD rS) := ⟨rfl, immFlag_headRR _ _ _⟩

theorem shlRI (rD : Reg) (imm : Word) : Statement (.shlRI rD imm) := ⟨rfl, immFlag_headRR _ _ _⟩

theorem shrRR (rD rS : Reg) : Statement (.shrRR rD rS) := ⟨rfl, immFlag_headRR _ _ _⟩

theorem shrRI (rD : Reg) (imm : Word) : Statement (.shrRI rD imm) := ⟨rfl, immFlag_headRR _ _ _⟩

theorem rolRR (rD rS : Reg) : Statement (.rolRR rD rS) := ⟨rfl, immFlag_headRR _ _ _⟩

theorem rolRI (rD : Reg) (imm : Word) : Statement (.rolRI rD imm) := ⟨rfl, immFlag_headRR _ _ _⟩

theorem rclRR (rD rS : Reg) : Statement (.rclRR rD rS) := ⟨rfl, immFlag_headRR _ _ _⟩

theorem rclRI (rD : Reg) (imm : Word) : Statement (.rclRI rD imm) := ⟨rfl, immFlag_headRR _ _ _⟩

theorem ldcp (rD : Reg) (cr : CrNum) : Statement (.ldcp rD cr) := ⟨rfl, immFlag_headC _ _ _⟩

theorem adcRR (rD rS : Reg) : Statement (.adcRR rD rS) := ⟨rfl, immFlag_headRR _ _ _⟩

theorem adcRI (rD : Reg) (imm : Word) : Statement (.adcRI rD imm) := ⟨rfl, immFlag_headRR _ _ _⟩

theorem sbbRR (rD rS : Reg) : Statement (.sbbRR rD rS) := ⟨rfl, immFlag_headRR _ _ _⟩

theorem sbbRI (rD : Reg) (imm : Word) : Statement (.sbbRI rD imm) := ⟨rfl, immFlag_headRR _ _ _⟩

theorem set (cond : Cond) (rD : Reg) : Statement (.set cond rD) := ⟨rfl, immFlag_headC _ _ _⟩

theorem testRR (rD rS : Reg) : Statement (.testRR rD rS) := ⟨rfl, immFlag_headRR _ _ _⟩

theorem testRI (rD : Reg) (imm : Word) : Statement (.testRI rD imm) := ⟨rfl, immFlag_headRR _ _ _⟩

theorem pushlr : Statement .pushlr := ⟨rfl, rfl⟩

theorem sarRR (rD rS : Reg) : Statement (.sarRR rD rS) := ⟨rfl, immFlag_headRR _ _ _⟩

theorem sarRI (rD : Reg) (imm : Word) : Statement (.sarRI rD imm) := ⟨rfl, immFlag_headRR _ _ _⟩

end Sys2Proof.Laws.EncodedLength
end

