-- ==== Sys2Proof/Tests/Slice0.lean ====
section
/-! SUPPORT. Tests: decoding of words written out from spec/30_encoding.md, one step tests from
spec/95_test_vectors.md (the section of each is named), and for every obligation with hypotheses a theorem
`witness_<obligation>` that concrete states and operands meet them. -/

namespace Sys2Proof.Tests

open Sys2Proof.Machine Sys2Proof.Claims

/-! ## Helpers -/

/-- The state of the vectors of 95_test_vectors.md: `pc` = 0x0100. -/
def base : State := State.reset.setPc 0x0100#16

/-- `s` with the parameters `c`. -/
def under (c : Config) (s : State) : State := { s with cfg := c }

/-- `RAM_LIMIT` = 0x8000, as some vectors ask. -/
def smallRam : Config := { Config.chosen with ramLimit := 0x8000#16 }

/-- SHIFT_COUNT_BIG = masked. -/
def maskedCounts : Config := { Config.chosen with shiftCountBig := .masked }

/-- SHIFT_COUNT_BIG = mathematical. -/
def bigCounts : Config := { Config.chosen with shiftCountBig := .mathematical }

/-- The four flags, as 95_test_vectors.md orders them: Z, C, S, V. -/
def zcsv (z c g v : Bool) : Flags := { z := z, c := c, s := g, v := v }

/-- One step from `s` over the words `w`, `imm` at `pc` completes, with `p`. -/
def runs (s : State) (w imm : Nat) (p : State → Bool) : Bool :=
  match step (s.withFetchWord 32 (w + 65536 * imm)) with
  | .next t => p t
  | .fault _ => false
  | .refused _ => false

/-- One step from `s` over the words `w`, `imm` at `pc` ends in the fault `f`. -/
def faults (s : State) (w imm : Nat) (f : Fault) : Bool :=
  match step (s.withFetchWord 32 (w + 65536 * imm)) with
  | .next _ => false
  | .fault g => g == f
  | .refused _ => false

/-- One step from `s` over the words `w`, `imm` at `pc` ends in the refusal `r`. -/
def refuses (s : State) (w imm : Nat) (r : Refusal) : Bool :=
  match step (s.withFetchWord 32 (w + 65536 * imm)) with
  | .next _ => false
  | .fault _ => false
  | .refused q => q == r

/-! ## WellFormed: an ill-formed term for each check -/

/-- PUSH and POP of the stack register (41_stack.md R144): `PUSH r7`, `POP r7`, `PUSH r6, r6`. -/
theorem test_wellFormed_refuses_same_register :
    Instr.wellFormed Config.chosen (.pushR 0#3 7#3) = false ∧ Instr.wellFormed Config.chosen (.pop 0#3 7#3) = false ∧
    Instr.wellFormed Config.chosen (.pushR 1#3 6#3) = false ∧ Instr.wellFormed Config.chosen (.pushR 1#3 7#3) = true := by
  decide

/-- A word access at an odd absolute address (20_memory.md R55). -/
theorem test_wellFormed_refuses_odd_address :
    Instr.wellFormed Config.chosen (.ldA 1#3 0x2001#16) = false ∧ Instr.wellFormed Config.chosen (.stA 0#3 0x2001#16) = false ∧
    Instr.wellFormed Config.chosen (.ldbA 1#3 0x2001#16) = true := by
  decide

/-- An always taken jump to an odd immediate target (45_control.md R186); an untaken one is well formed. -/
theorem test_wellFormed_refuses_odd_target :
    Instr.wellFormed Config.chosen (.jmpI .al 0x0201#16) = false ∧ Instr.wellFormed Config.chosen (.callI .al 0x0401#16) = false ∧
    Instr.wellFormed Config.chosen (.jmpI .nv 0x0201#16) = true := by
  decide

/-- An immediate shift count of 16 under SHIFT_COUNT_BIG = fault, and not under the other values (46_shift_rotate.md R206). -/
theorem test_wellFormed_refuses_big_count :
    Instr.wellFormed Config.chosen (.shlRI 0#3 16#16) = false ∧ Instr.wellFormed Config.chosen (.rclRI 0#3 15#16) = true ∧
    Instr.wellFormed maskedCounts (.shlRI 0#3 16#16) = true := by
  decide

/-! ## Decoding: every constructor, from words written out by the formats of 30_encoding.md -/

/-- Formats RR and RI of opcodes 1, 2, 13 to 16 (R82, R95). -/
theorem test_decode_two_operand :
    decode 0x0111#16 0#16 = .ok (.addRR 1#3 2#3) ∧ decode 0x8101#16 4#16 = .ok (.addRI 1#3 4#16) ∧
    decode 0x021A#16 0#16 = .ok (.subRR 2#3 3#3) ∧ decode 0x8205#16 0xBEEF#16 = .ok (.subRI 5#3 0xBEEF#16) ∧
    decode 0x0D22#16 0#16 = .ok (.movRR 2#3 4#3) ∧ decode 0x8D03#16 0xFF08#16 = .ok (.movRI 3#3 0xFF08#16) ∧
    decode 0x0E3E#16 0#16 = .ok (.andRR 6#3 7#3) ∧ decode 0x8E01#16 0x0FF0#16 = .ok (.andRI 1#3 0x0FF0#16) ∧
    decode 0x0F10#16 0#16 = .ok (.orRR 0#3 2#3) ∧ decode 0x8F00#16 0x0123#16 = .ok (.orRI 0#3 0x0123#16) ∧
    decode 0x101B#16 0#16 = .ok (.xorRR 3#3 3#3) ∧ decode 0x9003#16 0x0F0F#16 = .ok (.xorRI 3#3 0x0F0F#16) := by
  decide

/-- Formats RR and RI of opcodes 21, 25 to 28, 31, 32, 34, 36 (R82, R95). -/
theorem test_decode_two_operand_later :
    decode 0x1511#16 0#16 = .ok (.cmpRR 1#3 2#3) ∧ decode 0x9501#16 5#16 = .ok (.cmpRI 1#3 5#16) ∧
    decode 0x1910#16 0#16 = .ok (.shlRR 0#3 2#3) ∧ decode 0x9900#16 14#16 = .ok (.shlRI 0#3 14#16) ∧
    decode 0x1A11#16 0#16 = .ok (.shrRR 1#3 2#3) ∧ decode 0x9A01#16 15#16 = .ok (.shrRI 1#3 15#16) ∧
    decode 0x1B2C#16 0#16 = .ok (.rolRR 4#3 5#3) ∧ decode 0x9B02#16 1#16 = .ok (.rolRI 2#3 1#16) ∧
    decode 0x1C08#16 0#16 = .ok (.rclRR 0#3 1#3) ∧ decode 0x9C00#16 1#16 = .ok (.rclRI 0#3 1#16) ∧
    decode 0x1F19#16 0#16 = .ok (.adcRR 1#3 3#3) ∧ decode 0x9F06#16 7#16 = .ok (.adcRI 6#3 7#16) ∧
    decode 0x2011#16 0#16 = .ok (.sbbRR 1#3 2#3) ∧ decode 0xA001#16 2#16 = .ok (.sbbRI 1#3 2#16) ∧
    decode 0x2211#16 0#16 = .ok (.testRR 1#3 2#3) ∧ decode 0xA201#16 0x8000#16 = .ok (.testRI 1#3 0x8000#16) ∧
    decode 0x2434#16 0#16 = .ok (.sarRR 4#3 6#3) ∧ decode 0xA403#16 1#16 = .ok (.sarRI 3#3 1#16) := by
  decide

/-- Format B, the eight opcodes of 95_test_vectors.md 2.4 (R88). -/
theorem test_decode_byte_mov :
    decode 0x052A#16 0#16 = .ok (.movB0 0x2A#8) ∧ decode 0x062A#16 0#16 = .ok (.movB1 0x2A#8) ∧
    decode 0x072A#16 0#16 = .ok (.movB2 0x2A#8) ∧ decode 0x082A#16 0#16 = .ok (.movB3 0x2A#8) ∧
    decode 0x092A#16 0#16 = .ok (.movB4 0x2A#8) ∧ decode 0x0A2A#16 0#16 = .ok (.movB5 0x2A#8) ∧
    decode 0x0B2A#16 0#16 = .ok (.movB6 0x2A#8) ∧ decode 0x0CFF#16 0#16 = .ok (.movB7 0xFF#8) := by
  decide

/-- Formats S, U, Z and P (R89 to R92). -/
theorem test_decode_stack_unary_system :
    decode 0x0308#16 0#16 = .ok (.pushR 1#3 0#3) ∧ decode 0x8310#16 0x1234#16 = .ok (.pushI 2#3 0x1234#16) ∧
    decode 0x0411#16 0#16 = .ok (.pop 2#3 1#3) ∧ decode 0x1105#16 0#16 = .ok (.not 5#3) ∧
    decode 0x1203#16 0#16 = .ok (.neg 3#3) ∧ decode 0x1800#16 0#16 = .ok .ret ∧
    decode 0x2300#16 0#16 = .ok .pushlr ∧ decode 0x1D29#16 0#16 = .ok (.ldcp 1#3 5#4) := by
  decide

/-- Format M (R86): bit 7 is `byte`, bit 6 is `disp`, bits 5:3 the address register, bits 2:0 the data register. -/
theorem test_decode_memory :
    decode 0x1311#16 0#16 = .ok (.ldR 1#3 2#3) ∧ decode 0x9301#16 0x2000#16 = .ok (.ldA 1#3 0x2000#16) ∧
    decode 0x9351#16 4#16 = .ok (.ldD 1#3 2#3 4#16) ∧ decode 0x1390#16 0#16 = .ok (.ldbR 0#3 2#3) ∧
    decode 0x9380#16 0x2001#16 = .ok (.ldbA 0#3 0x2001#16) ∧ decode 0x93D0#16 1#16 = .ok (.ldbD 0#3 2#3 1#16) ∧
    decode 0x141C#16 0#16 = .ok (.stR 4#3 3#3) ∧ decode 0x9400#16 0xFF08#16 = .ok (.stA 0#3 0xFF08#16) ∧
    decode 0x9450#16 2#16 = .ok (.stD 0#3 2#3 2#16) ∧ decode 0x1491#16 0#16 = .ok (.stbR 1#3 2#3) ∧
    decode 0x9481#16 0xFF02#16 = .ok (.stbA 1#3 0xFF02#16) ∧ decode 0x94D9#16 6#16 = .ok (.stbD 1#3 3#3 6#16) := by
  decide

/-- Format C (R87): bits 6:3 are the condition code. -/
theorem test_decode_conditional :
    decode 0x1679#16 0#16 = .ok (.jmpR .al 1#3) ∧ decode 0x9608#16 0x0040#16 = .ok (.jmpI .eq 0x0040#16) ∧
    decode 0x1712#16 0#16 = .ok (.callR .ne 2#3) ∧ decode 0x9778#16 0x0100#16 = .ok (.callI .al 0x0100#16) ∧
    decode 0x2172#16 0#16 = .ok (.set .l 2#3) ∧ decode 0x210F#16 0#16 = .ok (.set .eq 7#3) := by
  decide

/-- 95_test_vectors.md 3.9: words that are not instructions. -/
theorem test_decode_rejects :
    decode 0x0000#16 0#16 = .error (.illegalInstruction 0x0000#16) ∧
    decode 0x9E00#16 0#16 = .error (.illegalInstruction 0x9E00#16) ∧
    decode 0x4100#16 0#16 = .error (.illegalInstruction 0x4100#16) ∧
    decode 0x0141#16 0#16 = .error (.reservedEncoding 0x0141#16) ∧
    decode 0x8301#16 0#16 = .error (.reservedEncoding 0x8301#16) ∧
    decode 0x8401#16 0#16 = .error (.reservedEncoding 0x8401#16) ∧
    decode 0x9488#16 0#16 = .error (.reservedEncoding 0x9488#16) ∧
    decode 0x9779#16 0#16 = .error (.reservedEncoding 0x9779#16) ∧
    decode 0x13C0#16 0#16 = .error (.undefinedDispWithoutImm 0x13C0#16) ∧
    decode 0x1440#16 0#16 = .error (.undefinedDispWithoutImm 0x1440#16) := by
  decide

/-- The bytes of 95_test_vectors.md 2.2 in both orders: `SHL r0, 14` is 00 99 0E 00 or 99 00 00 0E. -/
theorem test_encodeBytes :
    encodeBytes .little (.shlRI 0#3 14#16) = [0x00#8, 0x99#8, 0x0E#8, 0x00#8] ∧
    encodeBytes .big (.shlRI 0#3 14#16) = [0x99#8, 0x00#8, 0x00#8, 0x0E#8] := by
  decide

/-- The opcode table's numbering: the first word in bits 15:0, the second in bits 31:16. -/
theorem test_decodeTableWord :
    decodeTableWord 32 0x00048101 = some (.addRI 1#3 4#16) ∧ decodeTableWord 16 0x8101 = some (.addRI 1#3 0#16) ∧
    decodeTableWord 16 0x0000 = none := by
  decide

/-! ## One step, 95_test_vectors.md 3.1: arithmetic -/

theorem test_add_immediate : runs (base.setReg 1#3 3#16) 0x8101 4 (fun t =>
    t.reg 1#3 == 7#16 && t.flags == zcsv false false false false && t.pc == 0x0104#16) = true := by decide

theorem test_add_negative_overflow : runs ((base.setReg 1#3 0x8000#16).setReg 2#3 0x8000#16) 0x0111 0 (fun t =>
    t.reg 1#3 == 0#16 && t.flags == zcsv true true false true && t.pc == 0x0102#16) = true := by decide

/-- "Under V_RULE = one_sided the row 0x8000 + 0x8000 has V = 0 instead of 1." -/
theorem test_add_one_sided :
    runs (under { Config.chosen with vRule := .oneSided } ((base.setReg 1#3 0x8000#16).setReg 2#3 0x8000#16)) 0x0111 0
      (fun t => t.flags == zcsv true true false false) = true := by decide

theorem test_sub_register : runs ((base.setReg 1#3 3#16).setReg 2#3 5#16) 0x0211 0 (fun t =>
    t.reg 1#3 == 0xFFFE#16 && t.flags == zcsv false true true false && t.pc == 0x0102#16) = true := by decide

/-- The same row under SUB_CARRY_POLARITY = not_borrow: C complemented. -/
theorem test_sub_not_borrow :
    runs (under { Config.chosen with subCarry := .notBorrow } ((base.setReg 1#3 3#16).setReg 2#3 5#16)) 0x0211 0
      (fun t => t.reg 1#3 == 0xFFFE#16 && t.flags == zcsv false false true false) = true := by decide

theorem test_sub_immediate : runs base 0x8201 1 (fun t =>
    t.reg 1#3 == 0xFFFF#16 && t.flags == zcsv false true true false && t.pc == 0x0104#16) = true := by decide

theorem test_neg_smallest : runs (base.setReg 0#3 0x8000#16) 0x1200 0 (fun t =>
    t.reg 0#3 == 0x8000#16 && t.flags == zcsv false true true true && t.pc == 0x0102#16) = true := by decide

theorem test_cmp_immediate : runs (base.setReg 1#3 3#16) 0x9501 5 (fun t =>
    t.reg 1#3 == 3#16 && t.flags == zcsv false true true false && t.pc == 0x0104#16) = true := by decide

theorem test_cmp_register : runs ((base.setReg 1#3 0x8000#16).setReg 2#3 1#16) 0x1511 0 (fun t =>
    t.reg 1#3 == 0x8000#16 && t.flags == zcsv false false false true) = true := by decide

theorem test_adc_register :
    runs (((base.setReg 1#3 0xFFFF#16).setReg 3#3 0xFFFF#16).setFlags (zcsv false true false false)) 0x1F19 0 (fun t =>
      t.reg 1#3 == 0xFFFF#16 && t.flags == zcsv false true true false) = true := by decide

theorem test_sbb_immediate :
    runs ((base.setReg 1#3 5#16).setFlags (zcsv false true false false)) 0xA001 2 (fun t =>
      t.reg 1#3 == 2#16 && t.flags == zcsv false false false false && t.pc == 0x0104#16) = true := by decide

theorem test_sbb_register :
    runs ((base.setReg 2#3 0xFFFF#16).setFlags (zcsv false true false false)) 0x2011 0 (fun t =>
      t.reg 1#3 == 0#16 && t.flags == zcsv true true false false) = true := by decide

/-! ## 3.2, 3.3: logic and moves -/

theorem test_and_immediate : runs ((base.setReg 1#3 0xF0F0#16).setFlags (zcsv false true false true)) 0x8E01 0x0FF0
    (fun t => t.reg 1#3 == 0x00F0#16 && t.flags == zcsv false false false false && t.pc == 0x0104#16) = true := by decide

theorem test_or_register : runs ((base.setReg 0#3 0x8000#16).setReg 2#3 1#16) 0x0F10 0 (fun t =>
    t.reg 0#3 == 0x8001#16 && t.flags == zcsv false false true false) = true := by decide

theorem test_xor_same_register : runs ((base.setReg 3#3 0x5A5A#16).setFlags (zcsv false true false false)) 0x101B 0
    (fun t => t.reg 3#3 == 0#16 && t.flags == zcsv true false false false) = true := by decide

theorem test_xor_immediate : runs (base.setReg 3#3 0x00FF#16) 0x9003 0x0F0F (fun t =>
    t.reg 3#3 == 0x0FF0#16 && t.flags == zcsv false false false false) = true := by decide

theorem test_not : runs ((base.setReg 5#3 0x00FF#16).setFlags (zcsv false true false true)) 0x1105 0 (fun t =>
    t.reg 5#3 == 0xFF00#16 && t.flags == zcsv false false true false) = true := by decide

theorem test_test_immediate : runs ((base.setReg 1#3 0x8001#16).setFlags (zcsv false true false true)) 0xA201 0x8000
    (fun t => t.reg 1#3 == 0x8001#16 && t.flags == zcsv false false true false) = true := by decide

theorem test_mov_register_keeps_flags : runs ((base.setReg 4#3 0x1234#16).setFlags (zcsv true true true true)) 0x0D22 0
    (fun t => t.reg 2#3 == 0x1234#16 && t.flags == zcsv true true true true && t.pc == 0x0102#16) = true := by decide

theorem test_mov_immediate : runs base 0x8D03 0xFF08 (fun t => t.reg 3#3 == 0xFF08#16 && t.pc == 0x0104#16) = true := by
  decide

theorem test_mov_byte_clears_upper_byte : runs (base.setReg 7#3 0xAAAA#16) 0x0CFF 0 (fun t =>
    t.reg 7#3 == 0x00FF#16 && t.pc == 0x0102#16) = true := by decide

/-! ## 3.4: shifts and rotates. C after SHL, SHR, SAR is a free value and is not tested. -/

theorem test_shl_immediate : runs (base.setReg 0#3 1#16) 0x9900 14 (fun t =>
    t.reg 0#3 == 0x4000#16 && !t.flags.z && !t.flags.s && !t.flags.v && t.pc == 0x0104#16) = true := by decide

theorem test_shl_same_register : runs (base.setReg 1#3 3#16) 0x1909 0 (fun t =>
    t.reg 1#3 == 0x0018#16 && !t.flags.z && !t.flags.s && !t.flags.v) = true := by decide

theorem test_shr_register_big_count : faults ((base.setReg 1#3 0xFFFF#16).setReg 2#3 0xFFFF#16) 0x1A11 0
    (.shiftCountOutOfRange 65535) = true := by decide

theorem test_shr_immediate : runs (base.setReg 1#3 0xABCD#16) 0x9A01 4 (fun t =>
    t.reg 1#3 == 0x0ABC#16 && !t.flags.z && !t.flags.s && !t.flags.v) = true := by decide

theorem test_sar_immediate : runs (base.setReg 3#3 0xFFF9#16) 0xA403 1 (fun t =>
    t.reg 3#3 == 0xFFFC#16 && !t.flags.z && t.flags.s && !t.flags.v) = true := by decide

theorem test_rol_immediate : runs ((base.setReg 2#3 0x8001#16).setFlags (zcsv false true false true)) 0x9B02 1 (fun t =>
    t.reg 2#3 == 3#16 && t.flags == zcsv false false false false) = true := by decide

theorem test_rol_fifteen : runs (base.setReg 2#3 1#16) 0x9B02 15 (fun t =>
    t.reg 2#3 == 0x8000#16 && t.flags == zcsv false false true false) = true := by decide

theorem test_rcl_two : runs ((base.setReg 0#3 0x8000#16).setFlags (zcsv false true false false)) 0x9C00 2 (fun t =>
    t.reg 0#3 == 3#16 && t.flags == zcsv false false false false) = true := by decide

theorem test_rcl_four : runs ((base.setReg 0#3 0xABCD#16).setFlags (zcsv false true false false)) 0x9C00 4 (fun t =>
    t.reg 0#3 == 0xBCDD#16 && t.flags == zcsv false false true false) = true := by decide

/-! ## 3.5, 3.6: stack, loads and stores -/

theorem test_push_register : runs ((base.setReg 6#3 0x0800#16).setReg 0#3 1#16) 0x0308 0 (fun t =>
    t.reg 6#3 == 0x07FE#16 && t.ramWord 0x07FE#16 == 1#16 && t.pc == 0x0102#16) = true := by decide

/-- The same stack under STACK_FIELD_COMPLEMENT = false. -/
theorem test_pop_uncomplemented :
    runs (under { Config.chosen with stackComplement := false }
        ((base.setReg 5#3 0x07FE#16).storeWord 0x07FE#16 0x1234#16)) 0x0429 0
      (fun t => t.reg 1#3 == 0x1234#16 && t.reg 5#3 == 0x0800#16) = true := by decide

theorem test_push_immediate : runs (base.setReg 5#3 0x0800#16) 0x8310 0x1234 (fun t =>
    t.reg 5#3 == 0x07FE#16 && t.ramWord 0x07FE#16 == 0x1234#16 && t.pc == 0x0104#16) = true := by decide

theorem test_push_same_register : faults (base.setReg 7#3 0x1000#16) 0x0307 0 (.unspecifiedSameRegister 0x0307#16) = true := by
  decide

theorem test_pop : runs ((base.setReg 5#3 0x07FE#16).storeWord 0x07FE#16 0x1234#16) 0x0411 0 (fun t =>
    t.reg 1#3 == 0x1234#16 && t.reg 5#3 == 0x0800#16 && t.pc == 0x0102#16) = true := by decide

theorem test_pushlr : runs ((base.setReg 7#3 0x1000#16).setLr 0x0010#16) 0x2300 0 (fun t =>
    t.reg 7#3 == 0x0FFE#16 && t.ramWord 0x0FFE#16 == 0x0010#16 && t.lr == 0x0010#16) = true := by decide

theorem test_pushlr_into_peripherals : faults base 0x2300 0 (.unmappedPeripheral 0xFFFE#16) = true := by decide

theorem test_ld_displaced_wraps : runs ((base.setReg 2#3 0x2002#16).storeWord 0x2000#16 0xCAFE#16) 0x9351 0xFFFE
    (fun t => t.reg 1#3 == 0xCAFE#16 && t.pc == 0x0104#16) = true := by decide

theorem test_ld_same_register : runs ((base.setReg 1#3 0x2000#16).storeWord 0x2000#16 0x2000#16) 0x1309 0
    (fun t => t.reg 1#3 == 0x2000#16 && t.pc == 0x0102#16) = true := by decide

theorem test_ldb_extends_with_zeros :
    runs (((base.setReg 2#3 0x2003#16).setReg 0#3 0xAAAA#16).storeByte 0x2003#16 0xFF#8) 0x1390 0
      (fun t => t.reg 0#3 == 0x00FF#16) = true := by decide

theorem test_ldb_extends_with_sign :
    runs (under { Config.chosen with ldbExtension := .sign } (base.storeByte 0x2001#16 0x80#8)) 0x9380 0x2001
      (fun t => t.reg 0#3 == 0xFF80#16) = true := by decide

theorem test_ld_big_endian :
    runs (under { Config.chosen with byteOrder := .big } ((base.storeByte 0x2000#16 0x12#8).storeByte 0x2001#16 0x34#8))
      0x9300 0x2000 (fun t => t.reg 0#3 == 0x1234#16) = true := by decide

theorem test_st_register : runs ((base.setReg 3#3 0x2000#16).setReg 4#3 0xBEEF#16) 0x141C 0 (fun t =>
    t.ramByte 0x2000#16 == 0xEF#8 && t.ramByte 0x2001#16 == 0xBE#8 && t.pc == 0x0102#16) = true := by decide

theorem test_stb_stores_one_byte :
    runs (((base.setReg 2#3 0x2001#16).setReg 1#3 0x1241#16).storeWord 0x2000#16 0xAAAA#16) 0x1491 0 (fun t =>
      t.ramByte 0x2001#16 == 0x41#8 && t.ramByte 0x2000#16 == 0xAA#8) = true := by decide

theorem test_ld_misaligned : faults (base.setReg 2#3 0x2000#16) 0x9351 1 (.misalignedAccess 0x2001#16) = true := by decide

theorem test_stb_unbacked : faults (under smallRam (base.setReg 1#3 1#16)) 0x94D9 0x9000 (.unbackedAccess 0x9000#16) = true := by
  decide

/-! ## 3.7, 3.8: control transfer, SET, LDCP -/

/-- 95_test_vectors.md 2.6, the rows 0x0003 and 0x000C of the truth table. -/
theorem test_conditions :
    ([.nv, .eq, .ne, .os, .oc, .hi, .ls, .p, .n, .cs, .cc, .ge, .g, .le, .l, .al] : List Cond).filter
        (fun c => (base.setFlags (zcsv true true false false)).holds c) = [.eq, .oc, .p, .cs, .ge, .le, .al] ∧
    ([.nv, .eq, .ne, .os, .oc, .hi, .ls, .p, .n, .cs, .cc, .ge, .g, .le, .l, .al] : List Cond).filter
        (fun c => (base.setFlags (zcsv false false true true)).holds c) = [.ne, .os, .n, .cc, .ge, .g, .al] := by
  decide

theorem test_jmp_taken : runs ((base.setPc 0x0010#16).setFlags (zcsv true false false false)) 0x9608 0x0040 (fun t =>
    t.pc == 0x0040#16) = true := by decide

theorem test_jmp_not_taken : runs (base.setPc 0x0010#16) 0x9608 0x0040 (fun t => t.pc == 0x0014#16) = true := by decide

theorem test_jmp_register_odd : faults (base.setReg 1#3 0x0201#16) 0x1679 0 (.misalignedTarget 0x0201#16) = true := by decide

theorem test_jmp_never : runs (base.setReg 1#3 0x0201#16) 0x1601 0 (fun t => t.pc == 0x0102#16) = true := by decide

theorem test_call_immediate : runs (base.setPc 0x0004#16) 0x9778 0x0100 (fun t =>
    t.pc == 0x0100#16 && t.lr == 0x0008#16) = true := by decide

theorem test_call_register : runs (base.setReg 2#3 0x0400#16) 0x177A 0 (fun t =>
    t.pc == 0x0400#16 && t.lr == 0x0102#16) = true := by decide

theorem test_call_not_taken :
    runs (((base.setReg 2#3 0x0400#16).setFlags (zcsv true false false false)).setLr 0x0AAA#16) 0x1712 0 (fun t =>
      t.pc == 0x0102#16 && t.lr == 0x0AAA#16) = true := by decide

theorem test_ret : runs (base.setLr 0x0008#16) 0x1800 0 (fun t => t.pc == 0x0008#16 && t.lr == 0x0008#16) = true := by decide

theorem test_ret_odd : faults (base.setLr 0x0009#16) 0x1800 0 (.misalignedTarget 0x0009#16) = true := by decide

theorem test_set_true : runs (base.setFlags (zcsv false false true false)) 0x2172 0 (fun t =>
    t.reg 2#3 == 1#16) = true := by decide

theorem test_set_false : runs ((base.setReg 2#3 0xFFFF#16).setFlags (zcsv false false true true)) 0x2172 0 (fun t =>
    t.reg 2#3 == 0#16) = true := by decide

theorem test_ldcp_flags : runs (base.setFlags (zcsv true true false false)) 0x1D00 0 (fun t =>
    t.reg 0#3 == 3#16 && t.flags == zcsv true true false false) = true := by decide

/-! ## 3.9, 3.10: decoding faults and devices -/

theorem test_zero_word_is_illegal : faults base 0x0000 0 (.illegalInstruction 0#16) = true := by decide

theorem test_led : runs (base.setReg 0#3 0x01A5#16) 0x9480 0xFF00 (fun t => t.led == 0xA5#8) = true := by decide

theorem test_uart_write : runs ((base.setReg 1#3 0x1241#16).setReg 2#3 0xFF02#16) 0x1491 0 (fun t => t.uart.tx == [0x41#8]) = true := by decide

theorem test_uart_read : runs (base.setUart { base.uart with rx := [0x41#8, 0x42#8] }) 0x9382 0xFF02 (fun t =>
    t.reg 2#3 == 0x0041#16 && t.uart.rx == [0x42#8]) = true := by decide

theorem test_timer_write : runs ((base.setReg 3#3 0xFF06#16).setReg 4#3 0x03E8#16) 0x141C 0 (fun t => t.timer == 0x03E8#16) = true := by decide

theorem test_sound_write : runs (base.setReg 0#3 0x8123#16) 0x9400 0xFF08 (fun t =>
    t.voices == #v[0#14, 0#14, 0x0123#14, 0#14]) = true := by decide

theorem test_reserved_dma_type : faults (base.setReg 0#3 8#16) 0x9400 0xFF0A (.reservedDmaType 8#16) = true := by decide

theorem test_word_access_of_byte_register : faults base 0x9300 0xFF02 (.peripheralAccessSize 0xFF02#16 .word) = true := by decide

theorem test_read_of_write_only_register : faults (base.setReg 2#3 0xFF0C#16) 0x1311 0 (.peripheralAccessType 0xFF0C#16 .read) = true := by decide

theorem test_status_register_is_read_only : faults base 0x9480 0xFF03 (.peripheralAccessType 0xFF03#16 .write) = true := by decide

theorem test_fetch_from_peripheral : (match step (base.setPc 0xFF00#16) with
    | .fault f => f == .fetchFromPeripheral 0xFF00#16
    | _ => false) = true := by decide

/-- 60_exceptions.md R259, R268: a start with count 0 is refused. -/
theorem test_dma_zero_count_is_refused : refuses base 0x9450 0xFF0A (.dmaUnsupportedTransfer 0#16 0#16) = true := by decide

/-- A machine whose DMA engine reads two bytes from external address 0x00010000 into local address 0x2000. -/
def dmaReading : State :=
  (base.setDram [(0x10000, 0x12#8), (0x10001, 0x34#8)]).setDma
    { localAddr := 0x2000#16, remote := 1#16, remoteLow := 0, count := 2#16, kind := 1#3, busy := true, moved := [] }

/-- A machine whose DMA engine writes two bytes of RAM to external address 0. -/
def dmaWriting : State :=
  ((base.storeWord 0x2000#16 0x1234#16)).setDma
    { localAddr := 0x2000#16, remote := 0#16, remoteLow := 0, count := 2#16, kind := 0#3, busy := true, moved := [] }

/-- 60_exceptions.md R265: two byte moves, the higher byte first, end the transfer. -/
theorem test_dma_read : (match Sys2Proof.core.run 2 (dmaReading.setSched [.dmaMove 1, .dmaMove 0]) with
    | .next t => t.ramByte 0x2000#16 == 0x12#8 && t.ramByte 0x2001#16 == 0x34#8 && !t.dma.busy
        && t.dma.localAddr == 0x2002#16
    | _ => false) = true := by decide

/-! ## Witnesses: the hypotheses of each obligation are met -/

/-- `base` with the words of an instruction at `pc`. -/
def withWords (w imm : Nat) : State := base.withFetchWord 32 (w + 65536 * imm)

theorem witness_EncodeOfDecodeIsTheWord :
    decode 0x0111#16 0#16 = .ok (.addRR 1#3 2#3) ∧ decode 0x8101#16 4#16 = .ok (.addRI 1#3 4#16) := by decide

/-- The first and the last word of each opcode class of the rule. -/
theorem witness_ReservedEncodingsAreRejected_immediateFlag :
    ∀ w ∈ [0x8401#16, 0x8500#16, 0x8CFF#16, 0x9100#16, 0x9200#16, 0x9800#16, 0x9D00#16, 0xA100#16, 0xA300#16],
      32768 ≤ w.toNat ∧ w.toNat / 256 % 128 ∈ [4, 17, 18, 33, 24, 35, 29, 5, 6, 7, 8, 9, 10, 11, 12] := by
  intro w hw
  fin_cases hw <;> decide

/-- One word for each of the seven clauses on fields, in order. -/
theorem witness_ReservedEncodingsAreRejected :
    ((0x0141#16).toNat / 256 % 128 = 1 ∧ (0x0141#16).toNat / 64 % 4 ≠ 0) ∧
    ((0x1680#16).toNat / 256 % 128 = 22 ∧ (0x1680#16).toNat / 128 % 2 ≠ 0) ∧
    ((0x1801#16).toNat / 256 % 128 = 24 ∧ (0x1801#16).toNat % 256 ≠ 0) ∧
    ((0x1108#16).toNat / 256 % 128 = 17 ∧ (0x1108#16).toNat / 8 % 8 ≠ 0) ∧
    (32768 ≤ (0x8109#16).toNat ∧ (0x8109#16).toNat / 256 % 128 = 1 ∧ (0x8109#16).toNat / 8 % 8 ≠ 0) ∧
    (32768 ≤ (0x9308#16).toNat ∧ (0x9308#16).toNat / 256 % 128 = 19 ∧ (0x9308#16).toNat / 64 % 2 = 0 ∧
      (0x9308#16).toNat / 8 % 8 ≠ 0) ∧
    (32768 ≤ (0x9601#16).toNat ∧ (0x9601#16).toNat / 256 % 128 = 22 ∧ (0x9601#16).toNat % 8 ≠ 0) := by
  decide

/-- A two word instruction, with no turn listed and with the core's. -/
theorem witness_StepRunsDecodedInstruction :
    Fetchable (withWords 0x8101 4) 0x0100#16 ∧ Fetchable (withWords 0x8101 4) 0x0102#16 ∧
    decode ((withWords 0x8101 4).ramWord 0x0100#16) ((withWords 0x8101 4).ramWord 0x0102#16) = .ok (.addRI 1#3 4#16) ∧
    (withWords 0x8101 4).pc = 0x0100#16 ∧ ((withWords 0x8101 4).setSched []).sched = [] ∧
    (withWords 0x8101 4).sched = .core :: [] := by
  unfold Fetchable
  decide

/-- Each check of a fetch fails somewhere: odd `pc`; 0xFF00; RAM_LIMIT; each refused first word; an immediate word at
0xFF00 and at RAM_LIMIT. -/
theorem witness_FetchAndDecodeFaultsInOrder :
    (CoreTurn base ∧ (base.setPc 0x0101#16).pc.toNat % 2 = 1) ∧
    (CoreTurn (base.setPc 0xFF00#16) ∧ 0xFF00 ≤ (base.setPc 0xFF00#16).pc.toNat) ∧
    (CoreTurn (under smallRam base) ∧ (under smallRam base).cfg.ramLimit.toNat ≤ ((under smallRam base).setPc 0x8000#16).pc.toNat) ∧
    (Fetchable (withWords 0 0) 0x0100#16 ∧ decode ((withWords 0 0).ramWord 0x0100#16) 0#16 = .error (.illegalInstruction 0#16)) ∧
    decode ((withWords 0x0141 0).ramWord 0x0100#16) 0#16 = .error (.reservedEncoding 0x0141#16) ∧
    decode ((withWords 0x1340 0).ramWord 0x0100#16) 0#16 = .error (.undefinedDispWithoutImm 0x1340#16) ∧
    (Fetchable (base.setPc 0xFEFE#16) 0xFEFE#16 ∧ 0xFF00 ≤ ((base.setPc 0xFEFE#16).pc + 2#16).toNat ∧
      decode (((base.setPc 0xFEFE#16).withFetchWord 32 0x8101).ramWord 0xFEFE#16) 0#16 = .ok (.addRI 1#3 0#16)) ∧
    (Fetchable (under smallRam base) 0x7FFE#16 ∧ smallRam.ramLimit.toNat ≤ (0x7FFE#16 + 2#16).toNat) := by
  unfold Fetchable CoreTurn
  refine ⟨⟨.inl rfl, by decide⟩, ⟨.inl rfl, by decide⟩, ⟨.inl rfl, by decide⟩, by decide, by decide, by decide,
    by decide, by decide⟩

/-- The lowest and the highest `pc` the statement takes in under `Config.chosen`. -/
theorem witness_StoredInstructionIsFetchedAndRun :
    ∀ a ∈ [0x0000#16, 0xFEFC#16], (base.setPc a).pc.toNat % 2 = 0 ∧
      (base.setPc a).pc.toNat + 3 < 0xFF00 ∧ (base.setPc a).pc.toNat + 3 < (base.setPc a).cfg.ramLimit.toNat := by
  intro a ha
  fin_cases ha <;> decide

theorem witness_AgentTurnsLeaveTheCoreAlone :
    ∀ t ∈ [Turn.timerTick, .uartTransmit, .uartReceive 0x41#8, .dmaMove 0, .dmaAny], t ≠ .core ∧ (base.setSched [t]).sched = t :: [] := by
  decide

/-- The lowest and the highest word of RAM, in both byte orders. -/
theorem witness_WrittenWordReadsBackInEitherWidth :
    InRam base 0x0000#16 .word ∧ InRam base 0xFEFE#16 .word ∧ base.cfg.byteOrder = .little ∧
    InRam (under { Config.chosen with byteOrder := .big } base) 0xFEFE#16 .word ∧
    (under { Config.chosen with byteOrder := .big } base).cfg.byteOrder = .big := by
  unfold InRam
  decide

/-- An odd address for each of the four clauses: a load, a store, the two ends of the address space for the stack. -/
theorem witness_OddAndUnbackedAccessesFault_odd :
    (LoadsFrom base (.ldA 1#3 0x2001#16) .word 1#3 0x2001#16 0x0104#16 ∧
      StoresTo base (.stA 1#3 0x2001#16) .word 1#3 0x2001#16 0x0104#16 ∧ (0x2001#16).toNat % 2 = 1) ∧
    (Pushes (base.setReg 7#3 0x0001#16) .pushlr 7#3 0#16 0x0102#16 ∧ ((base.setReg 7#3 0x0001#16).reg 7#3).toNat % 2 = 1) ∧
    (1#3 ≠ stackNumber base.cfg 0#3 ∧
      ((base.setReg 7#3 0xFFFF#16).reg (stackNumber (base.setReg 7#3 0xFFFF#16).cfg 0#3)).toNat % 2 = 1) :=
  ⟨⟨.wordAbsolute 1#3 0x2001#16, .wordAbsolute 1#3 0x2001#16, by decide⟩, ⟨.link, by decide⟩, by decide⟩

/-- RAM_LIMIT itself and the last address below the peripherals, for each clause. -/
theorem witness_OddAndUnbackedAccessesFault_unbacked :
    (∀ a ∈ [0x8000#16, 0xFEFE#16], a.toNat % 2 = 0 ∧ (under smallRam base).cfg.ramLimit.toNat ≤ a.toNat ∧ a.toNat < 0xFF00) ∧
    LoadsFrom (under smallRam base) (.ldA 1#3 0x8000#16) .word 1#3 0x8000#16 0x0104#16 ∧
    StoresTo (under smallRam base) (.stA 1#3 0xFEFE#16) .word 1#3 0xFEFE#16 0x0104#16 ∧
    (Pushes (under smallRam (base.setReg 7#3 0x8002#16)) .pushlr 7#3 0#16 0x0102#16 ∧
      0x8000#16 = (under smallRam (base.setReg 7#3 0x8002#16)).reg 7#3 - 2#16) ∧
    (1#3 ≠ stackNumber smallRam 0#3 ∧
      0x8000#16 = (under smallRam (base.setReg 7#3 0x8000#16)).reg (stackNumber smallRam 0#3)) :=
  ⟨by intro a ha; fin_cases ha <;> decide, .wordAbsolute 1#3 0x8000#16, .wordAbsolute 1#3 0xFEFE#16,
    ⟨.link, by decide⟩, by decide⟩

/-- Addresses on both sides of the two outcomes. -/
theorem witness_PeripheralSizeAndPlaceAreChecked :
    (∀ a ∈ [0xFF01#16, 0xFF12#16, 0xFFFF#16, 0xFF11#16, 0xFF04#16], 0xFF00 ≤ a.toNat ∧ (a.toNat, Size.byte) ∉ registerMap) ∧
    (∀ a ∈ [0xFF00#16, 0xFF02#16, 0xFF12#16, 0xFFFE#16],
      a.toNat % 2 = 0 ∧ 0xFF00 ≤ a.toNat ∧ (a.toNat, Size.word) ∉ registerMap) := by
  constructor <;> intro a ha <;> fin_cases ha <;> decide

theorem witness_PeripheralAccessTypeIsChecked :
    (LoadsFrom base (.ldA 1#3 0xFF04#16) .word 1#3 0xFF04#16 0x0104#16 ∧
      0xFF04#16 ∈ [0xFF04#16, 0xFF08#16, 0xFF0C#16, 0xFF0E#16, 0xFF10#16]) ∧
    (LoadsFrom base (.ldA 1#3 0xFF10#16) .word 1#3 0xFF10#16 0x0104#16 ∧
      0xFF10#16 ∈ [0xFF04#16, 0xFF08#16, 0xFF0C#16, 0xFF0E#16, 0xFF10#16]) ∧
    StoresTo base (.stbA 1#3 0xFF03#16) .byte 1#3 0xFF03#16 0x0104#16 :=
  ⟨⟨.wordAbsolute 1#3 0xFF04#16, by decide⟩, ⟨.wordAbsolute 1#3 0xFF10#16, by decide⟩, .byteAbsolute 1#3 0xFF03#16⟩

theorem witness_SubtractionsWriteTheDifference : base.cfg.vRule = .signedOverflow := by decide

/-- Both polarities. -/
theorem witness_ConditionsAfterCompare :
    Compares base (.cmpRI 1#3 5#16) 1#3 5#16 ∧ base.cfg.condTable = Config.printedCondTable ∧
    base.cfg.vRule = .signedOverflow ∧ base.cfg.subCarry = .borrow ∧
    (under { Config.chosen with subCarry := .notBorrow } base).cfg.subCarry = .notBorrow ∧
    (under { Config.chosen with subCarry := .notBorrow } base).cfg.condTable = Config.printedCondTable ∧
    ∃ t, exec (.cmpRI 1#3 5#16) base = .next t :=
  ⟨.cmpRI 1#3 5#16, by decide, by decide, by decide, by decide, by decide, _, rfl⟩

theorem witness_OneSidedRuleLeavesSubtractionAlone :
    (under { Config.chosen with vRule := .oneSided } base).cfg.vRule = .oneSided := by decide

theorem witness_TestSetsTheFlagsOfAnd : ∃ t, exec (.andRI 1#3 5#16) base = .next t := ⟨_, rfl⟩

/-- The lowest and the highest register and byte. -/
theorem witness_MovEncodingsAgree :
    decode (BitVec.ofNat 16 ((5 + (0#3 : Reg).toNat) * 256 + (0x00#8).toNat)) 0#16 = .ok (.movB0 0x00#8) ∧
    decode (BitVec.ofNat 16 ((5 + (7#3 : Reg).toNat) * 256 + (0xFF#8).toNat)) 0#16 = .ok (.movB7 0xFF#8) ∧
    ∃ t, exec (.movRI 7#3 (BitVec.ofNat 16 (0xFF#8).toNat)) base = .next t :=
  ⟨by decide, by decide, _, rfl⟩

/-- The counts 0 and 15. -/
theorem witness_ShiftsFollowTheirFormulas :
    Shifts base (.shlRI 1#3 0#16) .shl 1#3 0#16 0x0104#16 ∧ Shifts base (.rclRI 1#3 15#16) .rcl 1#3 15#16 0x0104#16 ∧
    (0#16).toNat < 16 ∧ (15#16).toNat < 16 :=
  ⟨.shlRI 1#3 0#16, .rclRI 1#3 15#16, by decide, by decide⟩

/-- The counts 16 and 65535, each value of SHIFT_COUNT_BIG, each instruction. -/
theorem witness_BigShiftCounts :
    (Shifts base (.shlRI 1#3 16#16) .shl 1#3 16#16 0x0104#16 ∧ base.cfg.shiftCountBig = .fault) ∧
    (Shifts (under maskedCounts base) (.shrRI 1#3 16#16) .shr 1#3 16#16 0x0104#16 ∧
      (under maskedCounts base).cfg.shiftCountBig = .masked) ∧
    (Shifts (under bigCounts base) (.shlRI 1#3 16#16) .shl 1#3 16#16 0x0104#16 ∧
      Shifts (under bigCounts base) (.sarRI 1#3 16#16) .sar 1#3 16#16 0x0104#16 ∧
      Shifts (under bigCounts base) (.rolRI 1#3 0xFFFF#16) .rol 1#3 0xFFFF#16 0x0104#16 ∧
      Shifts (under bigCounts base) (.rclRI 1#3 0xFFFF#16) .rcl 1#3 0xFFFF#16 0x0104#16 ∧
      (under bigCounts base).cfg.shiftCountBig = .mathematical) ∧ 16 ≤ (16#16).toNat ∧ 16 ≤ (0xFFFF#16).toNat :=
  ⟨⟨.shlRI 1#3 16#16, rfl⟩, ⟨.shrRI 1#3 16#16, rfl⟩,
    ⟨.shlRI 1#3 16#16, .sarRI 1#3 16#16, .rolRI 1#3 0xFFFF#16, .rclRI 1#3 0xFFFF#16, rfl⟩, by decide, by decide⟩

theorem witness_RolMovesEachBit :
    Shifts base (.rolRI 2#3 15#16) .rol 2#3 15#16 0x0104#16 ∧ (15#16).toNat < 16 ∧ 15 < 16 ∧
    ∃ t, exec (.rolRI 2#3 15#16) base = .next t :=
  ⟨.rolRI 2#3 15#16, by decide, by decide, _, rfl⟩

/-- The three forms; a stack that reaches address 0 and one at the top of RAM. -/
theorem witness_PushStoresAndDecrements :
    (Pushes (base.setReg 7#3 2#16) (.pushR 0#3 1#3) 7#3 0#16 0x0102#16 ∧
      InRam (base.setReg 7#3 2#16) ((base.setReg 7#3 2#16).reg 7#3 - 2#16) .word) ∧
    (Pushes (base.setReg 7#3 0xFF00#16) (.pushI 0#3 5#16) 7#3 5#16 0x0104#16 ∧
      InRam (base.setReg 7#3 0xFF00#16) ((base.setReg 7#3 0xFF00#16).reg 7#3 - 2#16) .word) ∧
    Pushes (base.setReg 7#3 2#16) .pushlr 7#3 0#16 0x0102#16 := by
  refine ⟨⟨.register 0#3 1#3 (by decide), ?_⟩, ⟨.immediate 0#3 5#16, ?_⟩, .link⟩ <;> unfold InRam <;> decide

theorem witness_PopLoadsAndIncrements :
    1#3 ≠ stackNumber base.cfg 0#3 ∧ InRam base (base.reg (stackNumber base.cfg 0#3)) .word := by
  unfold InRam
  decide

theorem witness_PopAfterPushRestores :
    Pushes (base.setReg 7#3 2#16) (.pushI 0#3 5#16) (stackNumber base.cfg 0#3) 5#16 0x0104#16 ∧
    InRam (base.setReg 7#3 2#16) ((base.setReg 7#3 2#16).reg (stackNumber base.cfg 0#3) - 2#16) .word ∧
    1#3 ≠ stackNumber base.cfg 0#3 ∧
    ∃ t, exec (.pushI 0#3 5#16) (base.setReg 7#3 2#16) = .next t ∧ ∃ u, exec (.pop 0#3 1#3) t = .next u := by
  refine ⟨.immediate 0#3 5#16, ?_, by decide, _, rfl, _, rfl⟩
  unfold InRam
  decide

/-- Each form, at the ends of RAM. -/
theorem witness_LoadsFromRam :
    (LoadsFrom base (.ldR 1#3 2#3) .word 1#3 0#16 0x0102#16 ∧ InRam base 0#16 .word) ∧
    (LoadsFrom base (.ldA 1#3 0xFEFE#16) .word 1#3 0xFEFE#16 0x0104#16 ∧ InRam base 0xFEFE#16 .word) ∧
    (LoadsFrom base (.ldbA 1#3 0xFEFF#16) .byte 1#3 0xFEFF#16 0x0104#16 ∧ InRam base 0xFEFF#16 .byte) ∧
    LoadsFrom base (.ldbD 1#3 2#3 7#16) .byte 1#3 7#16 0x0104#16 := by
  refine ⟨⟨.wordIndirect 1#3 2#3, ?_⟩, ⟨.wordAbsolute 1#3 0xFEFE#16, ?_⟩, ⟨.byteAbsolute 1#3 0xFEFF#16, ?_⟩,
    .byteDisplaced 1#3 2#3 7#16⟩ <;> unfold InRam <;> decide

theorem witness_StoresToRam :
    (StoresTo base (.stA 1#3 0xFEFE#16) .word 1#3 0xFEFE#16 0x0104#16 ∧ InRam base 0xFEFE#16 .word) ∧
    (StoresTo base (.stbA 1#3 0xFEFF#16) .byte 1#3 0xFEFF#16 0x0104#16 ∧ InRam base 0xFEFF#16 .byte) := by
  refine ⟨⟨.wordAbsolute 1#3 0xFEFE#16, ?_⟩, ⟨.byteAbsolute 1#3 0xFEFF#16, ?_⟩⟩ <;> unfold InRam <;> decide

theorem witness_ConditionsArePrintedExpressions : base.cfg.condTable = Config.printedCondTable := by decide

/-- Taken to an even target, taken to an odd one, not taken. -/
theorem witness_JumpGoesToItsTarget :
    (Jumps base (.jmpI .al 0x0300#16) .al 0x0300#16 0x0104#16 ∧ base.holds .al = true ∧ (0x0300#16).toNat % 2 = 0) ∧
    (Jumps base (.jmpI .al 0x0301#16) .al 0x0301#16 0x0104#16 ∧ (0x0301#16).toNat % 2 = 1) ∧
    (Jumps base (.jmpR .eq 1#3) .eq 0#16 0x0102#16 ∧ base.holds .eq = false) :=
  ⟨⟨.immediate .al 0x0300#16, by decide, by decide⟩, ⟨.immediate .al 0x0301#16, by decide⟩, .register .eq 1#3, by decide⟩

theorem witness_CallLinksAndGoesToItsTarget :
    (Calls base (.callI .al 0x0300#16) .al 0x0300#16 0x0104#16 ∧ base.holds .al = true ∧ (0x0300#16).toNat % 2 = 0) ∧
    (Calls base (.callI .al 0x0301#16) .al 0x0301#16 0x0104#16 ∧ (0x0301#16).toNat % 2 = 1) ∧
    (Calls base (.callR .eq 1#3) .eq 0#16 0x0102#16 ∧ base.holds .eq = false) :=
  ⟨⟨.immediate .al 0x0300#16, by decide, by decide⟩, ⟨.immediate .al 0x0301#16, by decide⟩, .register .eq 1#3, by decide⟩

theorem witness_RetGoesToTheLink : (base.setLr 8#16).lr.toNat % 2 = 0 ∧ (base.setLr 9#16).lr.toNat % 2 = 1 := by decide

theorem witness_RetResumesAfterTheCall :
    Calls base (.callI .al 0x0300#16) .al 0x0300#16 0x0104#16 ∧ base.pc.toNat % 2 = 0 ∧ base.holds .al = true ∧
    ∃ t, exec (.callI .al 0x0300#16) base = .next t ∧ t.lr = t.lr :=
  ⟨.immediate .al 0x0300#16, by decide, by decide, _, rfl, rfl⟩

theorem witness_SetWritesTheCondition : base.holds .al = true ∧ base.holds .nv = false := by decide

theorem witness_LdcpReadsTheFlags : (0#4 : CrNum) = 0#4 ∧ (1#4 : CrNum) ≠ 0#4 ∧ (15#4 : CrNum) ≠ 0#4 := by decide

theorem witness_LedLatchHoldsWhatIsStored :
    StoresTo base (.stbA 1#3 0xFF00#16) .byte 1#3 0xFF00#16 0x0104#16 ∧
    LoadsFrom base (.ldbA 1#3 0xFF00#16) .byte 1#3 0xFF00#16 0x0104#16 :=
  ⟨.byteAbsolute 1#3 0xFF00#16, .byteAbsolute 1#3 0xFF00#16⟩

/-- `base` with `n` bytes in both FIFOs. -/
def queued (n : Nat) : State :=
  base.setUart { base.uart with tx := List.replicate n 0x55#8, rx := List.replicate n 0x66#8 }

/-- Seven bytes leave room for one; eight leave none. -/
theorem witness_UartDataRegisterUsesTheQueues_write :
    (StoresTo (queued 7) (.stbA 1#3 0xFF02#16) .byte 1#3 0xFF02#16 0x0104#16 ∧ (queued 7).uart.tx.length < 8) ∧
    (StoresTo (queued 8) (.stbA 1#3 0xFF02#16) .byte 1#3 0xFF02#16 0x0104#16 ∧ 8 ≤ (queued 8).uart.tx.length) :=
  ⟨⟨.byteAbsolute 1#3 0xFF02#16, by decide⟩, .byteAbsolute 1#3 0xFF02#16, by decide⟩

theorem witness_UartDataRegisterUsesTheQueues_read :
    (LoadsFrom (queued 1) (.ldbA 1#3 0xFF02#16) .byte 1#3 0xFF02#16 0x0104#16 ∧ (queued 1).uart.rx = 0x66#8 :: []) ∧
    (LoadsFrom base (.ldbA 1#3 0xFF02#16) .byte 1#3 0xFF02#16 0x0104#16 ∧ base.uart.rx = []) :=
  ⟨⟨.byteAbsolute 1#3 0xFF02#16, rfl⟩, .byteAbsolute 1#3 0xFF02#16, rfl⟩

theorem witness_UartStatusShowsTheQueues :
    LoadsFrom base (.ldbA 3#3 0xFF03#16) .byte 3#3 0xFF03#16 0x0104#16 ∧ base.cfg.ldbExtension = .zero :=
  ⟨.byteAbsolute 3#3 0xFF03#16, rfl⟩

theorem witness_BaudTimerAndSoundRegisters :
    StoresTo base (.stA 0#3 0xFF04#16) .word 0#3 0xFF04#16 0x0104#16 ∧
    StoresTo base (.stA 0#3 0xFF06#16) .word 0#3 0xFF06#16 0x0104#16 ∧
    LoadsFrom base (.ldA 1#3 0xFF06#16) .word 1#3 0xFF06#16 0x0104#16 ∧
    LoadsFrom base (.ldA 1#3 0xFF08#16) .word 1#3 0xFF08#16 0x0104#16 ∧
    StoresTo base (.stA 0#3 0xFF08#16) .word 0#3 0xFF08#16 0x0104#16 :=
  ⟨.wordAbsolute 0#3 0xFF04#16, .wordAbsolute 0#3 0xFF06#16, .wordAbsolute 1#3 0xFF06#16, .wordAbsolute 1#3 0xFF08#16,
    .wordAbsolute 0#3 0xFF08#16⟩

/-- Empty and not, not full and full. -/
theorem witness_UartAndTimerAgentsMove :
    ((base.setSched [.uartTransmit]).sched = .uartTransmit :: [] ∧ base.uart.tx = []) ∧
    ((queued 1).setSched [.uartTransmit]).uart.tx = 0x55#8 :: [] ∧
    (((queued 7).setSched [.uartReceive 1#8]).sched = .uartReceive 1#8 :: [] ∧ (queued 7).uart.rx.length < 8) ∧
    8 ≤ ((queued 8).setSched [.uartReceive 1#8]).uart.rx.length ∧
    (base.setSched [.timerTick]).sched = .timerTick :: [] := by
  decide

/-- `base` with a DMA engine that could start: two bytes at 0x2000. -/
def dmaReady : State := base.setDma { base.dma with localAddr := 0x2000#16, count := 2#16 }

/-- Each clause: the values 2, 0 and 1 written to DMA_CONTROL, idle and busy; the parameter
registers. -/
theorem witness_DmaRegistersStartATransfer :
    (StoresTo (base.setReg 1#3 2#16) (.stA 1#3 0xFF0A#16) .word 1#3 0xFF0A#16 0x0104#16 ∧
      2 ≤ ((base.setReg 1#3 2#16).reg 1#3).toNat) ∧
    (StoresTo (dmaReady.setReg 1#3 1#16) (.stA 1#3 0xFF0A#16) .word 1#3 0xFF0A#16 0x0104#16 ∧
      ((dmaReady.setReg 1#3 1#16).reg 1#3).toNat < 2 ∧ (dmaReady.setReg 1#3 1#16).dma.busy = false) ∧
    (StoresTo base (.stA 1#3 0xFF0A#16) .word 1#3 0xFF0A#16 0x0104#16 ∧ (base.reg 1#3).toNat < 2 ∧
      base.dma.busy = false) ∧
    (StoresTo dmaReading (.stA 1#3 0xFF0A#16) .word 1#3 0xFF0A#16 0x0104#16 ∧ (dmaReading.reg 1#3).toNat < 2 ∧
      dmaReading.dma.busy = true) ∧
    StoresTo dmaReading (.stA 1#3 0xFF10#16) .word 1#3 0xFF10#16 0x0104#16 ∧
    StoresTo base (.stA 1#3 0xFF0C#16) .word 1#3 0xFF0C#16 0x0104#16 ∧
    StoresTo base (.stA 1#3 0xFF0E#16) .word 1#3 0xFF0E#16 0x0104#16 ∧
    StoresTo base (.stA 1#3 0xFF10#16) .word 1#3 0xFF10#16 0x0104#16 :=
  ⟨⟨.wordAbsolute 1#3 0xFF0A#16, by decide⟩, ⟨.wordAbsolute 1#3 0xFF0A#16, by decide, by decide⟩,
    ⟨.wordAbsolute 1#3 0xFF0A#16, by decide, by decide⟩, ⟨.wordAbsolute 1#3 0xFF0A#16, by decide, by decide⟩,
    .wordAbsolute 1#3 0xFF10#16, .wordAbsolute 1#3 0xFF0C#16, .wordAbsolute 1#3 0xFF0E#16, .wordAbsolute 1#3 0xFF10#16⟩

/-- The range of a transfer that starts, at its ends: the last word of RAM and of the DRAM; and one past each end, a count of
0, an odd count, an odd local address. -/
theorem test_dma_ranges :
    dmaAcceptable (base.setDma { base.dma with localAddr := 0xFEFE#16, remote := 0xFFFF#16, count := 2#16, remoteLow := 0xFFFE })
      = true ∧
    ∀ d ∈ [{ base.dma with localAddr := 0xFEFE#16, count := 4#16 }, { base.dma with count := 0#16 },
        { base.dma with count := 3#16 }, { base.dma with localAddr := 1#16, count := 2#16 },
        { base.dma with remote := 0xFFFF#16, remoteLow := 0xFFFF, count := 2#16 }],
      dmaAcceptable (base.setDma d) = false := by
  decide

theorem witness_DmaStatusTellsIdleFromBusy :
    base.cfg.wf = true ∧ dmaReading.cfg = base.cfg ∧
    LoadsFrom base (.ldA 1#3 0xFF0A#16) .word 1#3 0xFF0A#16 0x0104#16 ∧
    LoadsFrom dmaReading (.ldA 1#3 0xFF0A#16) .word 1#3 0xFF0A#16 0x0104#16 ∧
    base.dma.busy = false ∧ dmaReading.dma.busy = true :=
  ⟨by decide, by decide, .wordAbsolute 1#3 0xFF0A#16, .wordAbsolute 1#3 0xFF0A#16, by decide, by decide⟩

/-- Both directions, the higher byte first. -/
theorem witness_DmaTransferCopiesInAnyOrder :
    ∀ s ∈ [dmaReading.setSched [.dmaMove 1, .dmaMove 0], dmaWriting.setSched [.dmaMove 1, .dmaMove 0]],
      s.dma.busy = true ∧ s.dma.moved = [] ∧ dmaAcceptable s = true ∧ s.dma.kind.toNat < 2 ∧
      [1, 0].Perm (List.range s.dma.count.toNat) ∧ s.sched = [1, 0].map .dmaMove := by
  decide

/-- A byte still to move in both directions, the last one, and one that is not of the transfer; the engine's own turn while
it is busy and idle. -/
theorem witness_DmaTurnMovesOneByte :
    ((dmaReading.setSched [.dmaMove 1]).sched = .dmaMove 1 :: [] ∧ StillToMove dmaReading.dma 1 ∧
      dmaReading.dma.kind = 1#3 ∧ dmaReading.dma.moved.length + 1 ≠ dmaReading.dma.count.toNat) ∧
    (StillToMove dmaWriting.dma 0 ∧ dmaWriting.dma.kind = 0#3) ∧
    (StillToMove { dmaReading.dma with moved := [1] } 0 ∧ [1].length + 1 = dmaReading.dma.count.toNat) ∧
    ¬ StillToMove dmaReading.dma 2 ∧ ¬ StillToMove { dmaReading.dma with moved := [1] } 1 ∧
    ((dmaReading.setSched [.dmaAny]).sched = .dmaAny :: [] ∧ ∃ j, StillToMove dmaReading.dma j) ∧
    (base.setSched [.dmaAny]).dma.busy = false := by
  unfold StillToMove
  refine ⟨?_, ?_, ?_, ?_, ?_, ⟨?_, 0, ?_⟩, ?_⟩ <;> decide

/-! ### Fairness -/

/-- `JMP.AL 0x0100` at 0x0100, with a running transfer out of RAM, a byte to send, and a timer count of 2. -/
def selfJump : State :=
  ((dmaWriting.setUart { base.uart with tx := [0x55#8] }).setTimer 2#16).withFetchWord 32 0x01009678

/-- A run that goes on past a turn of the core. -/
theorem witness_EveryAgentsTurnComesAgain : ∃ t, Sys2Proof.core.run 2 selfJump = .next t := ⟨_, rfl⟩

theorem witness_DevicesRunOnDuringASelfJump :
    Inv selfJump ∧ Fetchable selfJump selfJump.pc ∧ Fetchable selfJump (selfJump.pc + 2#16) ∧
    decode (selfJump.ramWord selfJump.pc) (selfJump.ramWord (selfJump.pc + 2#16)) = .ok (.jmpI .al selfJump.pc) ∧
    selfJump.cfg.condTable = Config.printedCondTable ∧ (selfJump.dma.busy = true → selfJump.dma.kind = 0#3) := by
  unfold Fetchable
  refine ⟨?_, ?_, ?_, ?_, ?_, ?_⟩
  · constructor <;> decide
  all_goals decide

theorem witness_DevicesFinishTheirWork :
    selfJump.uart.tx ≠ [] ∧ selfJump.timer ≠ 0#16 ∧ Inv selfJump ∧ selfJump.dma.busy = true :=
  ⟨by decide, by decide, witness_DevicesRunOnDuringASelfJump.1, by decide⟩

theorem witness_OnlyListedRegistersChange :
    (∃ t, exec (.cmpRR 1#3 2#3) base = .next t) ∧ 1#3 ∉ writtenRegs base.cfg (.cmpRR 1#3 2#3) ∧
    (∃ t, exec (.pushI 0#3 5#16) (base.setReg 7#3 2#16) = .next t) ∧
    6#3 ∉ writtenRegs (base.setReg 7#3 2#16).cfg (.pushI 0#3 5#16) :=
  ⟨⟨_, rfl⟩, by decide, ⟨_, rfl⟩, by decide⟩

theorem witness_OnlyListedInstructionsChangeFlags :
    (∃ t, exec (.ldcp 1#3 0#4) base = .next t) ∧ writesFlags (.ldcp 1#3 0#4) = false := ⟨⟨_, rfl⟩, rfl⟩

theorem witness_OnlyControlTransfersChangePcAndLink :
    (∃ t, exec .ret base = .next t) ∧ (∀ cond rD, Instr.ret ≠ .callR cond rD) ∧ (∀ cond imm, Instr.ret ≠ .callI cond imm) ∧
    (∃ t, exec (.not 1#3) base = .next t) ∧ transfersControl (.not 1#3) = false :=
  ⟨⟨_, rfl⟩, by simp, by simp, ⟨_, rfl⟩, rfl⟩

/-- An instruction that stores nothing, one that stores, and an address outside its bytes. -/
theorem witness_OnlyStoredBytesChange :
    ((∃ t, exec (.not 1#3) base = .next t) ∧ storeTarget base (.not 1#3) = none ∧ accessesData (.not 1#3) = false) ∧
    (∃ t, exec (.stA 1#3 0x2000#16) base = .next t) ∧
    storeTarget base (.stA 1#3 0x2000#16) = some (0x2000#16, .word) ∧
    ¬ Within 0x2000#16 .word 0x2002#16 ∧ ¬ Within 0x2000#16 .word 0x1FFF#16 := by
  refine ⟨⟨⟨_, rfl⟩, rfl, rfl⟩, ⟨_, rfl⟩, rfl, ?_, ?_⟩ <;> unfold Within <;> decide

theorem witness_EveryStepKeepsParametersAndUartOutput : ∃ t, step ((queued 1).setSched [.uartTransmit]) = .next t := ⟨_, rfl⟩

/-- Each kind of ill-formed instruction. -/
theorem witness_IllFormedInstructionsAlwaysFault :
    ∀ i ∈ [Instr.pop 0#3 7#3, .ldA 1#3 0x0001#16, .jmpI .al 0x0001#16, .shlRI 0#3 16#16], i.wellFormed base.cfg = false := by
  decide

theorem witness_ResetSetsPcAndBaudDivisor : Config.chosen.wf = true ∧ smallRam.wf = true := by decide

theorem witness_ResetMeetsTheInvariant : maskedCounts.wf = true ∧ bigCounts.wf = true := by decide

/-- A core's step, and a move of a running transfer. -/
theorem witness_EveryStepKeepsTheInvariant :
    (Inv (withWords 0x8101 4) ∧ ∃ t, step (withWords 0x8101 4) = .next t) ∧
    (Inv (dmaReading.setSched [.dmaMove 1]) ∧ ∃ t, step (dmaReading.setSched [.dmaMove 1]) = .next t) :=
  ⟨⟨by constructor <;> decide, _, rfl⟩, by constructor <;> decide, _, rfl⟩

end Sys2Proof.Tests
end

section
/-! Weak fairness. While turns are left a run takes them one by one off the list; the list then runs out and the core's
step begins a new round, in which each device has a turn. -/

namespace Sys2Proof.Proofs

open Sys2Proof.Machine Sys2Proof.Claims

/-! ## Runs -/

section
variable {s t : State} {m n : Nat}

/-- A run of one step and `n` more. -/
theorem run_succ : core.run (n + 1) s = andThen (step s) (core.run n) := by
  refine (Host.Core.run.eq_2 core s n).trans ?_
  change _ = andThen (core.step s) _
  cases core.step s <;> rfl

/-- A run that completes completes its first step. -/
theorem run_succ_eq_next : core.run (n + 1) s = .next t ↔ ∃ u, step s = .next u ∧ core.run n u = .next t := by
  rw [run_succ]
  exact andThen_eq_next

/-- A run of `m + n` steps is one of `m` and then one of `n`. -/
theorem run_add_eq_next :
    core.run (m + n) s = .next t ↔ ∃ u, core.run m s = .next u ∧ core.run n u = .next t := by
  induction m generalizing s with
  | zero =>
    rw [Nat.zero_add]
    exact ⟨fun h => ⟨s, rfl, h⟩, fun ⟨u, hs, h⟩ => by cases hs; exact h⟩
  | succ m ih =>
    rw [Nat.succ_add, run_succ_eq_next]
    constructor
    · rintro ⟨v, hv, h⟩
      obtain ⟨u, hu, h⟩ := ih.1 h
      exact ⟨u, run_succ_eq_next.2 ⟨v, hv, hu⟩, h⟩
    · rintro ⟨u, hu, h⟩
      obtain ⟨v, hv, hu⟩ := run_succ_eq_next.1 hu
      exact ⟨v, hv, ih.2 ⟨u, hu, h⟩⟩

/-! ## The turns to come -/

/-- A run takes the turns that stand first off the list, one a step, and leaves those behind them. -/
theorem run_sched_of_append {pre rest : List Turn} (hs : s.sched = pre ++ rest)
    (h : core.run pre.length s = .next t) : t.sched = rest := by
  induction pre generalizing s with
  | nil => cases h; exact hs
  | cons turn pre ih =>
    obtain ⟨u, hu, h⟩ := run_succ_eq_next.1 h
    rcases step_sched hu with ⟨hempty, -⟩ | ⟨turn', hcons⟩
    · simp [hempty] at hs
    · exact ih (List.cons.inj (hcons.symm.trans hs)).2 h

/-- When all the turns listed are taken, none is left. -/
theorem run_sched_length (h : core.run s.sched.length s = .next t) : t.sched = [] :=
  run_sched_of_append (List.append_nil _).symm h

/-- The step after the last turn listed begins a new round. -/
theorem run_sched_length_succ (h : core.run (s.sched.length + 1) s = .next t) : ∃ k, t.sched = roundOfTurns k := by
  obtain ⟨u, hu, h⟩ := run_add_eq_next.1 h
  obtain ⟨v, hv, h⟩ := run_succ_eq_next.1 h
  cases h
  rcases step_sched hv with ⟨-, hround⟩ | ⟨turn, hcons⟩
  · exact ⟨_, hround⟩
  · simp [run_sched_length hu] at hcons

/-- A turn that is in every round comes again: some turns of the new round stand before it, and a run takes them. -/
theorem turn_comes_again {turn : Turn} (hturn : ∀ k, turn ∈ roundOfTurns k) (s : State) :
    ∃ n, ∀ t, core.run n s = .next t → ∃ rest, t.sched = turn :: rest := by
  by_cases hstop : ∃ u, core.run (s.sched.length + 1) s = .next u
  · obtain ⟨u, hu⟩ := hstop
    obtain ⟨k, hk⟩ := run_sched_length_succ hu
    obtain ⟨pre, rest, hround⟩ := List.append_of_mem (hturn k)
    refine ⟨s.sched.length + 1 + pre.length, fun t ht => ⟨rest, ?_⟩⟩
    obtain ⟨u', hu', ht⟩ := run_add_eq_next.1 ht
    cases hu.symm.trans hu'
    exact run_sched_of_append (hk.trans hround) ht
  · exact ⟨s.sched.length + 1, fun t ht => absurd ⟨t, ht⟩ hstop⟩

end

/-- Each device has a turn in every round. -/
theorem device_mem_roundOfTurns {turn : Turn} (h : turn ∈ [Turn.timerTick, .uartTransmit, .dmaAny]) (k : Nat) :
    turn ∈ roundOfTurns k := by
  simp only [List.mem_cons, List.not_mem_nil, or_false] at h
  rcases h with rfl | rfl | rfl <;> simp [roundOfTurns]

/-- Settles O49: the core's turn comes when the turns listed are taken, and a device's in the round that then begins. -/
theorem everyAgentsTurnComesAgain : Obligations.EveryAgentsTurnComesAgain := fun s =>
  ⟨⟨s.sched.length, fun _ h => .inl (run_sched_length h)⟩,
    fun _ hturn => turn_comes_again (device_mem_roundOfTurns hturn) s⟩

end Sys2Proof.Proofs
end

section
/-! The frame of an instruction. What an instruction that completes may have done is said once, for every instruction: one
access to memory or a device, which leaves the core, and then a change of the core by the tables of 10_state.md. -/

namespace Sys2Proof.Proofs

open Sys2Proof.Machine Sys2Proof.Claims

section
variable {s t u : State}

/-! ## Registers -/

/-- A register after one register is written. -/
@[simp] theorem setReg_reg (s : State) (r q : Reg) (v : Word) :
    (s.setReg r v).reg q = if q = r then v else s.reg q := by
  unfold State.setReg State.reg
  rw [Vector.getElem_set]
  simp only [BitVec.toNat_inj, eq_comm]

theorem setReg_reg_of_not_mem {rD r : Reg} {v : Word} (h : r ∉ [rD]) : (s.setReg rD v).reg r = s.reg r := by
  rw [setReg_reg, if_neg (by simpa using h)]

/-- Settles O10: no register is hard-wired. -/
theorem registerReadsBackWhatWasWritten : Obligations.RegisterReadsBackWhatWasWritten := setReg_reg

/-- The stack register is the number the manual computes, 7 minus the field. -/
theorem stackReg_eq_stackNumber (s : State) (spn : Reg) : s.stackReg spn = stackNumber s.cfg spn := by
  have hnot : ∀ k : Reg, ~~~k = 7#3 - k := by decide
  simp only [State.stackReg, stackRegister, stackNumber, hnot]

/-! ## Accesses -/

/-- What an access to memory or to a device leaves: the core and the parameters. -/
structure LeavesCore (s t : State) : Prop where
  regs : t.regs = s.regs
  pc : t.pc = s.pc
  lr : t.lr = s.lr
  flags : t.flags = s.flags
  cfg : t.cfg = s.cfg

theorem memRead_leavesCore {a : Word} {n : Size} {vt : Word × State} (h : memRead s a n = .next vt) :
    LeavesCore s vt.2 := by
  rcases memRead_eq_next h with ⟨-, rfl⟩ | ⟨p, -, hp⟩
  · exact ⟨rfl, rfl, rfl, rfl, rfl⟩
  · rcases readPeriph_state hp with h | h | ⟨b, rest, -, h⟩ <;> rw [h] <;> exact ⟨rfl, rfl, rfl, rfl, rfl⟩

/-- A byte written to IO_UART_DATA is appended, or finds the Tx FIFO full. -/
theorem uartSend_cases (s : State) (b : Byte) :
    (s.uart.tx.length < 8 ∧ uartSend s b = s.setUart { s.uart with tx := s.uart.tx ++ [b] }) ∨
    (8 ≤ s.uart.tx.length ∧ uartSend s b = (s.setUart { s.uart with tx := scramble s.draws s.uart.tx }).draw) := by
  unfold uartSend
  split
  · exact .inl ⟨‹_›, rfl⟩
  · exact .inr ⟨by omega, rfl⟩

theorem memWrite_leavesCore {a v : Word} {n : Size} (h : memWrite s a n v = .next t) : LeavesCore s t := by
  rcases memWrite_eq_next h with ⟨-, rfl⟩ | ⟨p, -, hp⟩
  · cases n <;> exact ⟨rfl, rfl, rfl, rfl, rfl⟩
  · cases p
    case uartStatus => cases hp
    case uartData =>
      cases hp
      rcases uartSend_cases s (v.extractLsb' 0 8) with ⟨-, h⟩ | ⟨-, h⟩ <;> rw [h] <;> exact ⟨rfl, rfl, rfl, rfl, rfl⟩
    case dmaControl =>
      obtain ⟨-, -, -, -, rfl⟩ := dmaStart_eq_next hp
      exact ⟨rfl, rfl, rfl, rfl, rfl⟩
    case dmaLocal | dmaRemote | dmaCount =>
      obtain ⟨-, rfl⟩ := dmaParameter_eq_next hp
      exact ⟨rfl, rfl, rfl, rfl, rfl⟩
    all_goals
      cases hp
      exact ⟨rfl, rfl, rfl, rfl, rfl⟩

/-- `u` is `s` after the one access to memory or a device that an instruction makes, if it makes one. -/
inductive Accessed (s : State) : State → Prop where
  | none : Accessed s s
  | read {a : Word} {n : Size} {vt : Word × State} (h : memRead s a n = .next vt) : Accessed s vt.2
  | write {a v : Word} {n : Size} {u : State} (h : memWrite s a n v = .next u) : Accessed s u

theorem Accessed.leavesCore (h : Accessed s u) : LeavesCore s u := by
  cases h with
  | none => exact ⟨rfl, rfl, rfl, rfl, rfl⟩
  | read h => exact memRead_leavesCore h
  | write h => exact memWrite_leavesCore h

/-! ## Instructions -/

/-- CALL, in both forms. -/
def IsCall (i : Instr) : Prop := (∃ cond rD, i = .callR cond rD) ∨ ∃ cond imm, i = .callI cond imm

/-- What the instruction `i` may have done when it completes in `t`: one access, and then a change of the core. The
registers and flags are those of the tables; `pc` is past the instruction or at an even target; a CALL may link. -/
structure Completed (i : Instr) (s t : State) : Prop where
  access : ∃ u, Accessed s u ∧
    t = { u with regs := t.regs, flags := t.flags, pc := t.pc, lr := t.lr, draws := t.draws }
  regs : ∀ r, r ∉ writtenRegs s.cfg i → t.reg r = s.reg r
  flags : writesFlags i = false → t.flags = s.flags
  pc : t.pc = s.pc + BitVec.ofNat 16 (byteLength i) ∨ (transfersControl i = true ∧ t.pc.toNat % 2 = 0)
  lr : t.lr = s.lr ∨ (IsCall i ∧ t.lr = s.pc + BitVec.ofNat 16 (byteLength i))

/-- An instruction that goes on at the next one, with the registers and flags it does not write as the access left
them. -/
theorem Completed.of_access {i : Instr} (hu : Accessed s u)
    (ht : t = { u with regs := t.regs, flags := t.flags, pc := s.pc + BitVec.ofNat 16 (byteLength i), draws := t.draws })
    (hregs : ∀ r, r ∉ writtenRegs s.cfg i → t.reg r = u.reg r)
    (hflags : writesFlags i = false → t.flags = u.flags) : Completed i s t := by
  have hcore := hu.leavesCore
  have hpc : t.pc = s.pc + BitVec.ofNat 16 (byteLength i) := by rw [ht]
  have hlr : t.lr = u.lr := by rw [ht]
  refine ⟨⟨u, hu, ?_⟩, fun r hr => (hregs r hr).trans ?_, fun hf => (hflags hf).trans hcore.flags, .inl hpc,
    .inl (hlr.trans hcore.lr)⟩
  · rw [hpc, hlr]
    exact ht
  · simp only [State.reg, hcore.regs]

theorem pushValue_completed {i : Instr} {sp : Reg} {v next : Word} (h : pushValue sp v next s = .next t)
    (hsp : writtenRegs s.cfg i = [sp]) (hnext : next = s.pc + BitVec.ofNat 16 (byteLength i)) : Completed i s t := by
  obtain ⟨u, hu, rfl⟩ := pushValue_eq_next h
  subst hnext
  refine .of_access (.write hu) rfl (fun r hr => ?_) fun _ => rfl
  rw [hsp] at hr
  exact setReg_reg_of_not_mem hr

theorem jumpOp_completed {i : Instr} {cond : Cond} {op : Operand} (h : jumpOp cond op s = .next t)
    (hi : transfersControl i = true) (hnext : op.nextPc s = s.pc + BitVec.ofNat 16 (byteLength i)) :
    Completed i s t := by
  rcases jumpOp_eq_next h with ⟨-, heven, rfl⟩ | ⟨-, rfl⟩
  · exact ⟨⟨s, .none, rfl⟩, fun _ _ => rfl, fun _ => rfl, .inr ⟨hi, heven⟩, .inl rfl⟩
  · exact ⟨⟨s, .none, rfl⟩, fun _ _ => rfl, fun _ => rfl, .inl hnext, .inl rfl⟩

theorem callOp_completed {i : Instr} {cond : Cond} {op : Operand} (h : callOp cond op s = .next t)
    (hi : transfersControl i = true) (hcall : IsCall i)
    (hnext : op.nextPc s = s.pc + BitVec.ofNat 16 (byteLength i)) : Completed i s t := by
  rcases callOp_eq_next h with ⟨-, heven, rfl⟩ | ⟨-, rfl⟩
  · exact ⟨⟨s, .none, rfl⟩, fun _ _ => rfl, fun _ => rfl, .inr ⟨hi, heven⟩, .inr ⟨hcall, hnext⟩⟩
  · exact ⟨⟨s, .none, rfl⟩, fun _ _ => rfl, fun _ => rfl, .inl hnext, .inl rfl⟩

/-- A PUSH of a register that completes pushed a register other than the stack register. -/
theorem execPushR_eq_next {spn rD : Reg} (h : execPushR spn rD s = .next t) :
    rD ≠ s.stackReg spn ∧ pushValue (s.stackReg spn) (s.reg rD) s.afterOne s = .next t := by
  unfold execPushR at h
  split at h
  · cases h
  · exact ⟨‹_›, h⟩

/-- A POP that completes popped into a register other than the stack register. -/
theorem execPop_eq_next {spn rD : Reg} (h : execPop spn rD s = .next t) :
    rD ≠ s.stackReg spn ∧ popInto rD (s.stackReg spn) s = .next t := by
  unfold execPop at h
  split at h
  · cases h
  · exact ⟨‹_›, h⟩

/-- The flags or a free value in the register; a free value is one draw. -/
theorem execLdcp_eq_next {rD : Reg} {cr : CrNum} (h : execLdcp rD cr s = .next t) :
    t = (s.setReg rD s.flags.toWord).setPc s.afterOne ∨
    t = (s.draw.setReg rD (Config.freeWord s.draws)).setPc s.afterOne := by
  unfold execLdcp at h
  rcases readCr_cases (s := s) cr with ⟨-, hc⟩ | ⟨-, hc⟩ <;> rw [hc] at h <;> cases h
  · exact .inl rfl
  · exact .inr rfl

/-- What every instruction may do, by the operation that gives it its meaning. -/
theorem exec_completed (i : Instr) (h : exec i s = .next t) : Completed i s t := by
  cases i
  case pushR spn rD =>
    obtain ⟨-, hpush⟩ := execPushR_eq_next h
    exact pushValue_completed hpush (by rw [stackReg_eq_stackNumber]; rfl) rfl
  case pushI spn imm => exact pushValue_completed h (by rw [stackReg_eq_stackNumber]; rfl) rfl
  case pushlr => exact pushValue_completed h rfl rfl
  case pop spn rD =>
    obtain ⟨-, hpop⟩ := execPop_eq_next h
    obtain ⟨vt, hv, rfl⟩ := popInto_eq_next hpop
    refine .of_access (.read hv) rfl (fun r hr => ?_) fun _ => rfl
    simp only [writtenRegs, List.mem_cons, List.not_mem_nil, or_false, not_or] at hr
    obtain ⟨hrD, hsp⟩ := hr
    simp [stackReg_eq_stackNumber, hrD, hsp]
  case ldR | ldA | ldD =>
    obtain ⟨vt, hv, rfl⟩ := loadWord_eq_next h
    exact .of_access (.read hv) rfl (fun r hr => setReg_reg_of_not_mem hr) fun _ => rfl
  case ldbR | ldbA | ldbD =>
    obtain ⟨vt, hv, rfl⟩ := loadByte_eq_next h
    exact .of_access (.read hv) rfl (fun r hr => setReg_reg_of_not_mem hr) fun _ => rfl
  case stR | stA | stD | stbR | stbA | stbD =>
    obtain ⟨u, hu, rfl⟩ := storeTo_eq_next h
    exact .of_access (.write hu) rfl (fun _ _ => rfl) fun _ => rfl
  case jmpR | jmpI => exact jumpOp_completed h rfl rfl
  case callR cond rD => exact callOp_completed h rfl (.inl ⟨cond, rD, rfl⟩) rfl
  case callI cond imm => exact callOp_completed h rfl (.inr ⟨cond, imm, rfl⟩) rfl
  case ret =>
    obtain ⟨heven, rfl⟩ := transfer_eq_next h
    exact ⟨⟨s, .none, rfl⟩, fun _ _ => rfl, fun _ => rfl, .inr ⟨rfl, heven⟩, .inl rfl⟩
  case shlRR | shlRI | shrRR | shrRI | sarRR | sarRI =>
    obtain ⟨n, -, rfl⟩ := shiftOp_eq_next h
    exact .of_access .none rfl (fun r hr => setReg_reg_of_not_mem hr) nofun
  case rolRR | rolRI =>
    obtain ⟨n, -, rfl⟩ := rolOp_eq_next h
    exact .of_access .none rfl (fun r hr => setReg_reg_of_not_mem hr) nofun
  case rclRR | rclRI =>
    obtain ⟨n, -, rfl⟩ := rclOp_eq_next h
    exact .of_access .none rfl (fun r hr => setReg_reg_of_not_mem hr) nofun
  case ldcp rD cr =>
    rcases execLdcp_eq_next h with rfl | rfl <;>
      exact .of_access .none rfl (fun r hr => setReg_reg_of_not_mem hr) fun _ => rfl
  case cmpRR | cmpRI | testRR | testRI =>
    cases h
    exact .of_access .none rfl (fun _ _ => rfl) nofun
  case movB0 | movB1 | movB2 | movB3 | movB4 | movB5 | movB6 | movB7 | movRR | movRI | set =>
    cases h
    exact .of_access .none rfl (fun r hr => setReg_reg_of_not_mem hr) fun _ => rfl
  all_goals
    cases h
    exact .of_access .none rfl (fun r hr => setReg_reg_of_not_mem hr) nofun

/-- Settles O52: the registers of `Completed`. -/
theorem onlyListedRegistersChange : Obligations.OnlyListedRegistersChange := fun i _ _ r h hr =>
  (exec_completed i h).regs r hr

/-- Settles O53: the flags of `Completed`. -/
theorem onlyListedInstructionsChangeFlags : Obligations.OnlyListedInstructionsChangeFlags := fun i _ _ h hi =>
  (exec_completed i h).flags hi

/-- Settles O54: `pc` and `LR` of `Completed`, where the other case of each is a control transfer or a CALL. -/
theorem onlyControlTransfersChangePcAndLink : Obligations.OnlyControlTransfersChangePcAndLink := by
  intro i s t h
  have hc := exec_completed i h
  refine ⟨fun hi => ?_, fun hR hI => ?_⟩
  · rcases hc.pc with hnext | ⟨htransfer, -⟩
    · exact hnext
    · simp [hi] at htransfer
  · rcases hc.lr with hsame | ⟨⟨cond, rD, he⟩ | ⟨cond, imm, he⟩, -⟩
    · exact hsame
    · exact absurd he (hR cond rD)
    · exact absurd he (hI cond imm)

end

end Sys2Proof.Proofs
end

section
/-! The invariant. Each update of the state that a step makes keeps it under that update's own condition; an access, an
instruction and a turn of each agent are made of these updates. -/

namespace Sys2Proof.Proofs

open Sys2Proof.Machine Sys2Proof.Claims

section
variable {s t u : State}

/-! ## Reset -/

/-- RAM_LIMIT and RESET_PC are even (20_memory.md R51, 70_reset_and_hazards.md R292). -/
theorem even_of_config_wf {c : Config} (h : c.wf = true) : c.ramLimit.toNat % 2 = 0 ∧ c.resetPc.toNat % 2 = 0 := by
  simp only [Config.wf, Bool.and_eq_true, beq_iff_eq] at h
  obtain ⟨⟨⟨⟨⟨⟨hlimit, -⟩, -⟩, hpc⟩, -⟩, -⟩, -⟩ := h
  exact ⟨hlimit, hpc⟩

theorem inv_resetWith {c : Config} (hc : c.wf = true) : Inv (State.resetWith c) where
  cfgAdmissible := hc
  pcEven := (even_of_config_wf hc).2
  lrEven := rfl
  memCanonical := rfl
  memInRam := rfl
  dramCanonical := rfl
  dramInSize := rfl
  txFits := Nat.zero_le _
  rxFits := Nat.zero_le _
  dmaKindLegal := Nat.zero_lt_two
  dmaLowBits := Nat.two_pow_pos _
  dmaRunning := nofun
  dmaMovedInRange := nofun
  dmaMovedOnce := .nil
  dmaUnfinished := nofun
  dmaIdle _ := rfl

/-- Settles O59: the parameters of `Config.chosen` are admissible. -/
theorem resetMeetsTheInvariant : Obligations.ResetMeetsTheInvariant :=
  ⟨inv_resetWith (by decide), fun _ => inv_resetWith⟩

/-! ## Updates -/

theorem inv_setMem {m : Memory} (h : Inv s) (hwf : m.wf = true) (hbelow : m.below s.cfg.ramLimit.toNat = true) :
    Inv (s.setMem m) :=
  { h with memCanonical := hwf, memInRam := hbelow }

theorem inv_setDram {m : Memory} (h : Inv s) (hwf : m.wf = true) (hbelow : m.below s.cfg.dramSize = true) :
    Inv (s.setDram m) :=
  { h with dramCanonical := hwf, dramInSize := hbelow }

theorem inv_setUart {v : Uart} (h : Inv s) (htx : v.tx.length ≤ 8) (hrx : v.rx.length ≤ 8) : Inv (s.setUart v) :=
  { h with txFits := htx, rxFits := hrx }

theorem inv_draw (h : Inv s) : Inv s.draw := { h with }

theorem inv_setLed {b : Byte} (h : Inv s) : Inv (s.setLed b) := { h with }

theorem inv_setTimer {v : Word} (h : Inv s) : Inv (s.setTimer v) := { h with }

theorem inv_setVoice {n : BitVec 2} {d : BitVec 14} (h : Inv s) : Inv (s.setVoice n d) := { h with }

theorem inv_setSched {l : List Turn} (h : Inv s) : Inv (s.setSched l) := { h with }

theorem inv_newRound (h : Inv s) : Inv s.newRound := { h with }

/-- An idle DMA engine has a legal type, no low bits beyond those the engine can keep, and nothing moved. -/
theorem inv_setDma_idle {d : Dma} (h : Inv s) (hkind : d.kind.toNat < 2) (hlow : d.remoteLow < 2 ^ s.cfg.dmaRemoteShift)
    (hbusy : d.busy = false) (hmoved : d.moved = []) : Inv (s.setDma d) :=
  { h with
    dmaKindLegal := hkind
    dmaLowBits := hlow
    dmaRunning := by simp [hbusy]
    dmaMovedInRange := by simp [hmoved]
    dmaMovedOnce := by simp [hmoved]
    dmaUnfinished := by simp [hbusy]
    dmaIdle := fun _ => hmoved }

/-- The core's fields and the draws are free, but for `pc` and `LR`, which are even. -/
theorem inv_of_core (h : Inv u)
    (ht : t = { u with regs := t.regs, flags := t.flags, pc := t.pc, lr := t.lr, draws := t.draws })
    (hpc : t.pc.toNat % 2 = 0) (hlr : t.lr.toNat % 2 = 0) : Inv t := by
  rw [ht]
  exact { h with pcEven := hpc, lrEven := hlr }

theorem inv_storeByte {a : Word} {b : Byte} (h : Inv s) (ha : a.toNat < s.cfg.ramLimit.toNat) :
    Inv (s.storeByte a b) :=
  inv_setMem h (Memory.store_wf _ _ h.memCanonical) (Memory.store_below _ ha h.memInRam)

/-- The second byte of an aligned word below the even RAM_LIMIT is below it too. -/
theorem inv_storeWord {a v : Word} (h : Inv s) (heven : a.toNat % 2 = 0) (ha : a.toNat < s.cfg.ramLimit.toNat) :
    Inv (s.storeWord a v) := by
  obtain ⟨hlimit, -⟩ := even_of_config_wf h.cfgAdmissible
  refine inv_storeByte (inv_storeByte h ha) ?_
  rw [State.storeByte_cfg, BitVec.toNat_add, BitVec.toNat_ofNat]
  omega

/-! ## Accesses and instructions -/

theorem inv_uartSend {b : Byte} (h : Inv s) : Inv (uartSend s b) := by
  rcases uartSend_cases s b with ⟨hroom, he⟩ | ⟨-, he⟩ <;> rw [he]
  · exact inv_setUart h (by simpa using hroom) h.rxFits
  · exact inv_draw (inv_setUart h (by simpa using h.txFits) h.rxFits)

/-- An acceptable transfer moves something, its local range lies in RAM below the peripherals, and its external range in
the DRAM. -/
theorem dmaAcceptable_ranges (h : dmaAcceptable s = true) :
    0 < s.dma.count.toNat ∧ s.dma.localAddr.toNat + s.dma.count.toNat ≤ s.cfg.ramLimit.toNat ∧
    s.dma.localAddr.toNat + s.dma.count.toNat ≤ 0xFF00 ∧ dmaExternal s + s.dma.count.toNat ≤ s.cfg.dramSize := by
  simp only [dmaAcceptable, Bool.and_eq_true, decide_eq_true_eq] at h
  obtain ⟨⟨⟨⟨⟨-, hcount⟩, -⟩, hram⟩, hperiph⟩, hdram⟩ := h
  exact ⟨hcount, hram, hperiph, hdram⟩

theorem inv_dmaStart {v : Word} (h : Inv s) (hstart : dmaStart s v = .next t) : Inv t := by
  obtain ⟨-, hkind, -, hacc, rfl⟩ := dmaStart_eq_next hstart
  obtain ⟨hcount, -⟩ := dmaAcceptable_ranges hacc
  exact { h with
    dmaKindLegal := hkind
    dmaRunning := fun _ => hacc
    dmaMovedInRange := nofun
    dmaMovedOnce := .nil
    dmaUnfinished := fun _ => hcount
    dmaIdle := nofun }

/-- A parameter write leaves an engine that was idle idle. -/
theorem inv_dmaParameter {addr : Word} {d : Dma} (h : Inv s) (hwrite : dmaParameter s addr d = .next t)
    (hkind : d.kind = s.dma.kind) (hlow : d.remoteLow < 2 ^ s.cfg.dmaRemoteShift) (hbusy : d.busy = s.dma.busy)
    (hmoved : d.moved = s.dma.moved) : Inv t := by
  obtain ⟨hidle, rfl⟩ := dmaParameter_eq_next hwrite
  exact inv_setDma_idle h (hkind ▸ h.dmaKindLegal) hlow (hbusy.trans hidle) (hmoved.trans (h.dmaIdle hidle))

theorem inv_memRead {a : Word} {n : Size} {vt : Word × State} (h : Inv s) (hread : memRead s a n = .next vt) :
    Inv vt.2 := by
  rcases memRead_eq_next hread with ⟨-, rfl⟩ | ⟨p, -, hp⟩
  · exact h
  · rcases readPeriph_state hp with he | he | ⟨b, rest, hrx, he⟩ <;> rw [he]
    · exact h
    · exact inv_draw h
    · refine inv_setUart h h.txFits ?_
      have := h.rxFits
      rw [hrx, List.length_cons] at this
      exact Nat.le_of_succ_le this

theorem inv_memWrite {a v : Word} {n : Size} (h : Inv s) (hwrite : memWrite s a n v = .next t) : Inv t := by
  rcases memWrite_eq_next hwrite with ⟨hl, rfl⟩ | ⟨p, -, hp⟩
  · obtain ⟨haligned, -, hlimit⟩ := locate_ram hl
    cases n with
    | byte => exact inv_storeByte h hlimit
    | word => exact inv_storeWord h (by simpa using haligned) hlimit
  · cases p
    case uartStatus => cases hp
    case ledData => cases hp; exact inv_setLed h
    case uartData => cases hp; exact inv_uartSend h
    case uartBaud => cases hp; exact inv_setUart h h.txFits h.rxFits
    case timerData => cases hp; exact inv_setTimer h
    case soundData => cases hp; exact inv_setVoice h
    case dmaControl => exact inv_dmaStart h hp
    case dmaLocal | dmaCount => exact inv_dmaParameter h hp rfl h.dmaLowBits rfl rfl
    case dmaRemote => exact inv_dmaParameter h hp rfl (Nat.two_pow_pos _) rfl rfl

theorem inv_accessed (h : Inv s) (ha : Accessed s u) : Inv u := by
  cases ha with
  | none => exact h
  | read hread => exact inv_memRead h hread
  | write hwrite => exact inv_memWrite h hwrite

theorem byteLength_cases (i : Instr) : byteLength i = 2 ∨ byteLength i = 4 := by
  unfold byteLength
  split <;> simp

/-- The address of the next instruction is even. -/
theorem nextPc_even {pc : Word} (i : Instr) (h : pc.toNat % 2 = 0) :
    (pc + BitVec.ofNat 16 (byteLength i)).toNat % 2 = 0 := by
  rcases byteLength_cases i with hl | hl <;> rw [hl, BitVec.toNat_add, BitVec.toNat_ofNat] <;> omega

theorem inv_exec (i : Instr) (h : Inv s) (hexec : exec i s = .next t) : Inv t := by
  have hc := exec_completed i hexec
  have hnext := nextPc_even i h.pcEven
  obtain ⟨u, hu, ht⟩ := hc.access
  refine inv_of_core (inv_accessed h hu) ht ?_ ?_
  · rcases hc.pc with hpc | ⟨-, heven⟩
    · exact hpc ▸ hnext
    · exact heven
  · rcases hc.lr with hlr | ⟨-, hlr⟩
    · exact hlr ▸ h.lrEven
    · exact hlr ▸ hnext

/-! ## Turns of the other agents -/

/-- The timer stands still or counts down by 1. -/
theorem timerStep_cases (s : State) :
    (s.timer = 0#16 ∧ timerStep s = s) ∨ (s.timer ≠ 0#16 ∧ timerStep s = s.setTimer (s.timer - 1#16)) := by
  unfold timerStep
  split
  · exact .inl ⟨‹_›, rfl⟩
  · exact .inr ⟨‹_›, rfl⟩

theorem inv_timerStep (h : Inv s) : Inv (timerStep s) := by
  rcases timerStep_cases s with ⟨-, he⟩ | ⟨-, he⟩ <;> rw [he]
  · exact h
  · exact inv_setTimer h

/-- The transmitter has nothing to send, or sends the head of the Tx FIFO. -/
theorem transmitStep_cases (s : State) :
    (s.uart.tx = [] ∧ transmitStep s = s) ∨
    ∃ b rest, s.uart.tx = b :: rest ∧
      transmitStep s = s.setUart { s.uart with tx := rest, sent := s.uart.sent ++ [b] } := by
  unfold transmitStep
  cases h : s.uart.tx with
  | nil => exact .inl ⟨rfl, rfl⟩
  | cons b rest => exact .inr ⟨b, rest, rfl, rfl⟩

theorem inv_transmitStep (h : Inv s) : Inv (transmitStep s) := by
  rcases transmitStep_cases s with ⟨-, he⟩ | ⟨b, rest, htx, he⟩ <;> rw [he]
  · exact h
  · refine inv_setUart h ?_ h.rxFits
    have := h.txFits
    rw [htx, List.length_cons] at this
    exact Nat.le_of_succ_le this

/-- The receiver appends the byte, or finds the Rx FIFO full. -/
theorem receiveStep_cases (b : Byte) (s : State) :
    (s.uart.rx.length < 8 ∧ receiveStep b s = s.setUart { s.uart with rx := s.uart.rx ++ [b] }) ∨
    (8 ≤ s.uart.rx.length ∧
      receiveStep b s = (s.setUart { s.uart with rx := scramble s.draws s.uart.rx, overrun := true }).draw) := by
  unfold receiveStep
  split
  · exact .inl ⟨‹_›, rfl⟩
  · exact .inr ⟨by omega, rfl⟩

theorem inv_receiveStep (b : Byte) (h : Inv s) : Inv (receiveStep b s) := by
  rcases receiveStep_cases b s with ⟨hroom, he⟩ | ⟨-, he⟩ <;> rw [he]
  · exact inv_setUart h h.txFits (by simpa using hroom)
  · exact inv_draw (inv_setUart h h.txFits (by simpa using h.rxFits))

/-- The local address of a byte of an acceptable transfer does not wrap. -/
theorem dmaLocalByte_toNat {i : Nat} (h : dmaAcceptable s = true) (hi : i < s.dma.count.toNat) :
    (dmaLocalByte s i).toNat = s.dma.localAddr.toNat + i := by
  obtain ⟨-, -, hperiph, -⟩ := dmaAcceptable_ranges h
  rw [dmaLocalByte, BitVec.toNat_add, BitVec.toNat_ofNat]
  omega

theorem inv_dmaCopy {i : Nat} (h : Inv s) (hbusy : s.dma.busy = true) (hi : i < s.dma.count.toNat) :
    Inv (dmaCopy s i) := by
  have hacc := h.dmaRunning hbusy
  obtain ⟨-, hram, -, hdram⟩ := dmaAcceptable_ranges hacc
  rcases dmaCopy_cases s i with ⟨-, he⟩ | ⟨-, he⟩ <;> rw [he]
  · exact inv_setDram h (Memory.store_wf _ _ h.dramCanonical) (Memory.store_below _ (by omega) h.dramInSize)
  · refine inv_setMem h (Memory.store_wf _ _ h.memCanonical) (Memory.store_below _ ?_ h.memInRam)
    rw [dmaLocalByte_toNat hacc hi]
    omega

/-- A copied byte leaves the DMA engine. -/
@[simp] theorem dmaCopy_dma (s : State) (i : Nat) : (dmaCopy s i).dma = s.dma := by
  rcases dmaCopy_cases s i with ⟨-, he⟩ | ⟨-, he⟩ <;> rw [he] <;> rfl

/-- A byte of a running transfer that has not been moved, and is not the last one, is recorded. -/
theorem inv_recordMoved {i : Nat} (h : Inv s) (hi : i < s.dma.count.toNat) (hnew : i ∉ s.dma.moved)
    (hbusy : s.dma.busy = true) (hlast : s.dma.moved.length + 1 ≠ s.dma.count.toNat) :
    Inv (s.setDma { s.dma with moved := i :: s.dma.moved }) :=
  { h with
    dmaMovedInRange := List.forall_mem_cons.2 ⟨hi, h.dmaMovedInRange⟩
    dmaMovedOnce := List.nodup_cons.2 ⟨hnew, h.dmaMovedOnce⟩
    dmaUnfinished := fun _ => Nat.lt_of_le_of_ne (h.dmaUnfinished hbusy) hlast
    dmaIdle := fun hidle => absurd hbusy (by simp [show s.dma.busy = false from hidle]) }

theorem inv_dmaFinish (h : Inv s) : Inv (dmaFinish s) := by
  refine inv_draw (inv_setDma_idle h h.dmaKindLegal ?_ rfl rfl)
  split
  · exact Nat.mod_lt _ (Nat.two_pow_pos _)
  · exact Nat.two_pow_pos _

theorem inv_dmaStep (i : Nat) (h : Inv s) : Inv (dmaStep i s) := by
  rcases dmaStep_cases i s with he | ⟨hbusy, hi, hnew, ⟨-, he⟩ | ⟨hlast, he⟩⟩ <;> rw [he]
  · exact h
  · exact inv_dmaFinish (inv_dmaCopy h hbusy hi)
  · have hcopy := inv_dmaCopy h hbusy hi
    rw [← dmaCopy_dma s i] at hi hnew hbusy hlast ⊢
    exact inv_recordMoved hcopy hi hnew hbusy hlast

theorem inv_agentStep (turn : Turn) (h : Inv s) : Inv (agentStep turn s) := by
  cases turn with
  | core => exact h
  | timerTick => exact inv_timerStep h
  | uartTransmit => exact inv_transmitStep h
  | uartReceive b => exact inv_receiveStep b h
  | dmaMove i => exact inv_dmaStep i h
  | dmaAny =>
    rcases dmaAnyStep_cases s with ⟨-, he⟩ | ⟨-, he⟩ <;> rw [agentStep, he]
    · exact h
    · exact inv_dmaStep _ (inv_draw h)

/-! ## Steps -/

/-- A step that completes is an instruction of the core or the move of an agent, at the state with the turns to come
brought up to date. -/
theorem step_eq_next (h : step s = .next t) :
    ∃ u, (u = s.newRound ∨ ∃ rest, u = s.setSched rest) ∧
      ((∃ i, exec i u = .next t) ∨ ∃ turn, t = agentStep turn u) := by
  rcases step_cases s with ⟨-, hc⟩ | ⟨rest, -, hc⟩ | ⟨turn, rest, -, -, hc⟩
  · obtain ⟨i, -, hexec⟩ := coreStep_eq_next (hc.symm.trans h)
    exact ⟨_, .inl rfl, .inl ⟨i, hexec⟩⟩
  · obtain ⟨i, -, hexec⟩ := coreStep_eq_next (hc.symm.trans h)
    exact ⟨_, .inr ⟨rest, rfl⟩, .inl ⟨i, hexec⟩⟩
  · cases hc.symm.trans h
    exact ⟨_, .inr ⟨rest, rfl⟩, .inr ⟨turn, rfl⟩⟩

/-- Settles O60: the turns to come are free, and an instruction and the move of any agent keep the invariant. -/
theorem everyStepKeepsTheInvariant : Obligations.EveryStepKeepsTheInvariant := by
  intro s t h hstep
  obtain ⟨u, hu, hmove⟩ := step_eq_next hstep
  have hinv : Inv u := by
    rcases hu with rfl | ⟨rest, rfl⟩
    · exact inv_newRound h
    · exact inv_setSched h
  rcases hmove with ⟨i, hexec⟩ | ⟨turn, rfl⟩
  · exact inv_exec i hinv hexec
  · exact inv_agentStep turn hinv

/-! ## Parameters and UART output -/

theorem exec_cfg (i : Instr) (h : exec i s = .next t) : t.cfg = s.cfg := by
  obtain ⟨u, hu, ht⟩ := (exec_completed i h).access
  rw [ht]
  exact hu.leavesCore.cfg

/-- A DMA move leaves the parameters and the UART. -/
theorem dmaStep_cfg_uart (i : Nat) (s : State) : (dmaStep i s).cfg = s.cfg ∧ (dmaStep i s).uart = s.uart := by
  rcases dmaStep_cases i s with h | ⟨-, -, -, ⟨-, h⟩ | ⟨-, h⟩⟩ <;>
    rcases dmaCopy_cases s i with ⟨-, hc⟩ | ⟨-, hc⟩ <;> rw [h] <;> simp [hc, dmaFinish]

/-- The move of an agent leaves the parameters, and sends nothing or the head of the Tx FIFO. -/
theorem agentStep_cfg_sent (turn : Turn) (s : State) :
    (agentStep turn s).cfg = s.cfg ∧
    ((agentStep turn s).uart.sent = s.uart.sent ∨
      ∃ b q, s.uart.tx = b :: q ∧ (agentStep turn s).uart.tx = q ∧
        (agentStep turn s).uart.sent = s.uart.sent ++ [b]) := by
  cases turn with
  | core => exact ⟨rfl, .inl rfl⟩
  | timerTick =>
    rcases timerStep_cases s with ⟨-, he⟩ | ⟨-, he⟩ <;> rw [agentStep, he] <;> exact ⟨rfl, .inl rfl⟩
  | uartTransmit =>
    rcases transmitStep_cases s with ⟨-, he⟩ | ⟨b, rest, htx, he⟩ <;> rw [agentStep, he]
    · exact ⟨rfl, .inl rfl⟩
    · exact ⟨rfl, .inr ⟨b, rest, htx, rfl, rfl⟩⟩
  | uartReceive b =>
    rcases receiveStep_cases b s with ⟨-, he⟩ | ⟨-, he⟩ <;> rw [agentStep, he] <;> exact ⟨rfl, .inl rfl⟩
  | dmaMove i =>
    obtain ⟨hcfg, huart⟩ := dmaStep_cfg_uart i s
    exact ⟨hcfg, .inl (by rw [agentStep, huart])⟩
  | dmaAny =>
    rcases dmaAnyStep_cases s with ⟨-, he⟩ | ⟨-, he⟩ <;> rw [agentStep, he]
    · exact ⟨rfl, .inl rfl⟩
    · obtain ⟨hcfg, huart⟩ := dmaStep_cfg_uart (dmaPick s) s.draw
      exact ⟨hcfg, .inl (by rw [huart]; rfl)⟩

/-- Settles O56: an instruction leaves what has been sent, and of the agents only the transmitter sends. -/
theorem everyStepKeepsParametersAndUartOutput : Obligations.EveryStepKeepsParametersAndUartOutput := by
  intro s t hstep
  obtain ⟨u, hu, hmove⟩ := step_eq_next hstep
  have hsame : u.cfg = s.cfg ∧ u.uart = s.uart := by
    rcases hu with rfl | ⟨rest, rfl⟩ <;> exact ⟨rfl, rfl⟩
  rw [← hsame.1, ← hsame.2]
  rcases hmove with ⟨i, hexec⟩ | ⟨turn, rfl⟩
  · exact ⟨exec_cfg i hexec, .inl (exec_leavesAgents i hexec).sent⟩
  · exact agentStep_cfg_sent turn u

end

end Sys2Proof.Proofs
end

section
/-! Subtraction. The bit formulas of the model for a difference and its flags are those of the exact integer results, and
V_RULE does not enter them. -/

namespace Sys2Proof.Proofs

open Sys2Proof.Machine Sys2Proof.Claims

theorem bit15_eq_decide (a : Word) : a.getLsbD 15 = decide (32768 ≤ a.toNat) :=
  (BitVec.msb_eq_getLsbD_last a).symm.trans (BitVec.msb_eq_decide a)

theorem word_toInt (a : Word) : a.toInt = if 32768 ≤ a.toNat then (a.toNat : Int) - 65536 else a.toNat := by
  rw [BitVec.toInt_eq_toNat_cond]
  split <;> split <;> omega

theorem carryIn_eq_toNat (cin : Bool) : carryIn cin = cin.toNat := by
  cases cin <;> rfl

theorem diffOf_eq (a b : Word) (cin : Bool) : diffOf a b cin = (a.toNat : Int) - b.toNat - cin.toNat := by
  rw [diffOf, carryIn_eq_toNat]

theorem diffWord_toNat (a b : Word) (cin : Bool) : ((diffWord a b cin).toNat : Int) = diffOf a b cin % 65536 := by
  rw [diffWord, BitVec.toNat_ofInt, Int.toNat_of_nonneg (Int.emod_nonneg _ (by decide))]
  rfl

/-- V of a subtraction by the bit formula says that the exact signed difference does not fit (10_state.md R28). -/
theorem subOverflow_eq (a b : Word) (cin : Bool) :
    subOverflow a b (diffWord a b cin) = outOfRangeBit (a.toInt - b.toInt - cin.toNat) := by
  have hd := diffWord_toNat a b cin
  rw [diffOf_eq] at hd
  have hcin := Bool.toNat_le cin
  have ha := a.isLt
  have hb := b.isLt
  rw [Bool.eq_iff_iff]
  simp only [subOverflow, outOfRangeBit, bit15_eq_decide, word_toInt, Bool.and_eq_true, Bool.or_eq_true, bne_iff_ne, ne_eq,
    decide_eq_decide, decide_eq_true_eq]
  split <;> split <;> omega

/-- The flags of a subtraction, whatever V_RULE says. -/
theorem subFlags_eq (cfg : Config) (a b : Word) (cin : Bool) :
    subFlags cfg a b cin = differenceFlags cfg.subCarry a b cin.toNat := by
  have hd := diffWord_toNat a b cin
  have hz : zeroFlag (diffWord a b cin) = decide (diffOf a b cin % 65536 = 0) := by
    rw [Bool.eq_iff_iff]
    simp only [zeroFlag, beq_iff_eq, decide_eq_true_eq, ← BitVec.toNat_inj, BitVec.toNat_ofNat]
    omega
  have hs : signFlag (diffWord a b cin) = decide (32768 ≤ diffOf a b cin % 65536) := by
    rw [signFlag, bit15_eq_decide, decide_eq_decide]
    omega
  cases hp : cfg.subCarry with
  | borrow => simp only [subFlags, differenceFlags, hp, hz, hs, subOverflow_eq, diffOf_eq]
  | notBorrow =>
    simp only [subFlags, differenceFlags, hp, hz, hs, subOverflow_eq, diffOf_eq, ← decide_not, Int.not_lt]

section
variable (s : State) (cin : Bool) (rD : Reg) (op : Operand)

theorem subOp_eq :
    subOp cin rD op s = .next (subtracted s rD (s.reg rD) (op.value s) cin.toNat (op.nextPc s)) := by
  rw [subOp, subFlags_eq, diffWord, diffOf_eq, subtracted]

theorem execNeg_eq : execNeg rD s = .next (subtracted s rD 0#16 (s.reg rD) 0 (s.pc + 2#16)) := by
  rw [execNeg, subFlags_eq, diffWord, diffOf_eq, subtracted]
  rfl

theorem cmpOp_eq :
    cmpOp rD op s =
      .next ((s.setFlags (differenceFlags s.cfg.subCarry (s.reg rD) (op.value s) 0)).setPc (op.nextPc s)) := by
  rw [cmpOp, subFlags_eq]
  rfl

end

/-- Settles O19: `subOp_eq`, `execNeg_eq` and `cmpOp_eq` hold under either V_RULE. -/
theorem oneSidedRuleLeavesSubtractionAlone : Obligations.OneSidedRuleLeavesSubtractionAlone := by
  intro s rD rS imm _ compared
  exact ⟨subOp_eq s false rD (.reg rS), subOp_eq s false rD (.imm imm), subOp_eq s s.flags.c rD (.reg rS),
    subOp_eq s s.flags.c rD (.imm imm), execNeg_eq s rD, cmpOp_eq s rD (.reg rS), cmpOp_eq s rD (.imm imm)⟩

end Sys2Proof.Proofs
end

section
/-! Fetch. Whether a word decodes does not depend on the immediate word, so the core may check the first word before it
fetches the second (30_encoding.md R96). -/

namespace Sys2Proof.Proofs

open Sys2Proof.Machine Sys2Proof.Claims

/-- Two answers of the decoder for the word `w`, which differ in the immediate word given: the same rejection, or two
instructions, which are one if `w` has no immediate word. -/
def SameVerdict (w : Word) (x y : Except Reject Instr) : Prop :=
  (∃ r, x = .error r ∧ y = .error r) ∨ ∃ i j, x = .ok i ∧ y = .ok j ∧ (immFlag w = false → i = j)

section
variable {w : Word}

theorem SameVerdict.refl (x : Except Reject Instr) : SameVerdict w x x := by
  cases x with
  | error r => exact .inl ⟨r, rfl, rfl⟩
  | ok i => exact .inr ⟨i, i, rfl, rfl, fun _ => rfl⟩

/-- Both answers take the same branch of a check. -/
theorem SameVerdict.ite {p : Prop} [Decidable p] {x y x' y' : Except Reject Instr} (hpos : SameVerdict w x x')
    (hneg : ¬ p → SameVerdict w y y') : SameVerdict w (if p then x else y) (if p then x' else y') := by
  split
  · exact hpos
  · exact hneg ‹_›

/-- The forms with an immediate word stand behind the check of bit 15. -/
theorem SameVerdict.of_immFlag {i j : Instr} (h : ¬ immFlag w = false) : SameVerdict w (.ok i) (.ok j) :=
  .inr ⟨i, j, rfl, rfl, fun h' => absurd h' h⟩

variable (w) (imm imm' : Word)

theorem decodeRR_sameVerdict (rr : Reg → Reg → Instr) (ri : Reg → Word → Instr) :
    SameVerdict w (decodeRR w imm rr ri) (decodeRR w imm' rr ri) :=
  .ite (.refl _) fun _ => .ite (.refl _) fun h => .ite (.refl _) fun _ => .of_immFlag h

theorem decodePush_sameVerdict : SameVerdict w (decodePush w imm) (decodePush w imm') :=
  .ite (.refl _) fun _ => .ite (.refl _) fun h => .ite (.refl _) fun _ => .of_immFlag h

theorem decodeC_sameVerdict (r : Cond → Reg → Instr) (i : Cond → Word → Instr) :
    SameVerdict w (decodeC w imm r i) (decodeC w imm' r i) :=
  .ite (.refl _) fun _ => .ite (.refl _) fun h => .ite (.refl _) fun _ => .of_immFlag h

theorem decodeM_sameVerdict (r : Reg → Reg → Instr) (a : Reg → Word → Instr) (d : Reg → Reg → Word → Instr)
    (br : Reg → Reg → Instr) (ba : Reg → Word → Instr) (bd : Reg → Reg → Word → Instr) :
    SameVerdict w (decodeM w imm r a d br ba bd) (decodeM w imm' r a d br ba bd) := by
  by_cases h : immFlag w = false
  · simp only [decodeM, if_pos h]
    exact .refl _
  · simp only [decodeM, if_neg h]
    exact .ite (.of_immFlag h) fun _ => .ite (.refl _) fun _ => .of_immFlag h

theorem decode_sameVerdict : SameVerdict w (decode w imm) (decode w imm') := by
  unfold decode
  split
  case h_3 => exact decodePush_sameVerdict w imm imm'
  case h_19 | h_20 => exact decodeM_sameVerdict w imm imm' _ _ _ _ _ _
  case h_22 | h_23 => exact decodeC_sameVerdict w imm imm' _ _
  case h_4 | h_5 | h_6 | h_7 | h_8 | h_9 | h_10 | h_11 | h_12 | h_17 | h_18 | h_24 | h_29 | h_32 | h_34 | h_36 =>
    exact .refl _
  all_goals exact decodeRR_sameVerdict w imm imm' _ _

end

section
variable {s : State} {i : Instr}

theorem decoded_of_ok {w imm : Word} (h : decode w imm = .ok i) : decoded w imm = .next i := by
  simp [decoded, h]

/-- The converse of `fetchInstr_eq_next`: an instruction whose words can be fetched is fetched. -/
theorem fetchInstr_of_decode (hpc : Fetchable s s.pc)
    (himm : immFlag (s.ramWord s.pc) = true → Fetchable s (s.pc + 2#16))
    (hi : decode (s.ramWord s.pc) (s.ramWord (s.pc + 2#16)) = .ok i) : fetchInstr s = .next i := by
  have hfetch : ∀ {a : Word}, Fetchable s a → fetchWord s a = .next (s.ramWord a) :=
    fun ⟨heven, hperiph, hlimit⟩ => fetchWord_of_ram heven hperiph hlimit
  rcases decode_sameVerdict (s.ramWord s.pc) 0#16 (s.ramWord (s.pc + 2#16)) with ⟨r, -, hr⟩ | ⟨j, k, hj, hk, hsame⟩
  · simp [hr] at hi
  · obtain rfl : k = i := by simpa [hk] using hi
    simp only [fetchInstr, hfetch hpc, andThen_next, decoded_of_ok hj]
    split
    · rw [hsame ‹_›]
    · rw [hfetch (himm (by simpa using ‹¬ immFlag (s.ramWord s.pc) = false›)), andThen_next, decoded_of_ok hk]

theorem coreStep_of_decode (hpc : Fetchable s s.pc)
    (himm : immFlag (s.ramWord s.pc) = true → Fetchable s (s.pc + 2#16))
    (hi : decode (s.ramWord s.pc) (s.ramWord (s.pc + 2#16)) = .ok i) : coreStep s = exec i s := by
  rw [coreStep, fetchInstr_of_decode hpc himm hi, andThen_next]

end

/-- Settles O6: what is fetched does not depend on the turns to come. -/
theorem stepRunsDecodedInstruction : Obligations.StepRunsDecodedInstruction := by
  intro s i hpc himm hi
  refine ⟨fun hsched => ?_, fun rest hsched => ?_⟩
  · rw [step, hsched]
    exact coreStep_of_decode (s := s.newRound) hpc himm hi
  · rw [step, hsched]
    exact coreStep_of_decode (s := s.setSched rest) hpc himm hi

end Sys2Proof.Proofs
end

section
/-! Encoding. The fields of an encoded first word are the ones it was made of, so the decoder gives the instruction back,
format by format (30_encoding.md R82 to R92). -/

namespace Sys2Proof.Proofs

open Sys2Proof.Machine Sys2Proof.Claims
open Sys2Proof.Laws.EncodedLength (immFlag_headRR immFlag_headM immFlag_headC immFlag_byte)

section
variable (hi : Byte) (rS rD : Reg)

/-! ## Formats RR, RI, U and S -/

@[simp] theorem opcodeField_headRR : opcodeField (headRR hi rS rD) = hi.extractLsb' 0 7 :=
  (BitVec.extractLsb'_append_eq_of_le (by decide)).trans <| (BitVec.extractLsb'_append_eq_of_le (by decide)).trans
    (BitVec.extractLsb'_append_eq_of_le (by decide))

@[simp] theorem rdField_headRR : rdField (headRR hi rS rD) = rD := BitVec.extractLsb'_append_eq_right

@[simp] theorem rsField_headRR : rsField (headRR hi rS rD) = rS :=
  (BitVec.extractLsb'_append_eq_of_le (by decide)).trans BitVec.extractLsb'_append_eq_right

@[simp] theorem reservedField_headRR : reservedField (headRR hi rS rD) = 0#2 :=
  (BitVec.extractLsb'_append_eq_of_le (by decide)).trans <| (BitVec.extractLsb'_append_eq_of_le (by decide)).trans
    BitVec.extractLsb'_append_eq_right

/-! ## Format M -/

variable (b d : BitVec 1)

@[simp] theorem opcodeField_headM : opcodeField (headM hi b d rS rD) = hi.extractLsb' 0 7 :=
  (BitVec.extractLsb'_append_eq_of_le (by decide)).trans <| (BitVec.extractLsb'_append_eq_of_le (by decide)).trans <|
    (BitVec.extractLsb'_append_eq_of_le (by decide)).trans (BitVec.extractLsb'_append_eq_of_le (by decide))

@[simp] theorem rdField_headM : rdField (headM hi b d rS rD) = rD := BitVec.extractLsb'_append_eq_right

@[simp] theorem rsField_headM : rsField (headM hi b d rS rD) = rS :=
  (BitVec.extractLsb'_append_eq_of_le (by decide)).trans BitVec.extractLsb'_append_eq_right

@[simp] theorem bit7_headM : bit7 (headM hi b d rS rD) = b.getLsbD 0 := by
  unfold bit7 headM
  iterate 4 erw [BitVec.getLsbD_append]
  rfl

@[simp] theorem dispFlag_headM : dispFlag (headM hi b d rS rD) = d.getLsbD 0 := by
  unfold dispFlag headM
  iterate 3 erw [BitVec.getLsbD_append]
  rfl

/-! ## Formats C and P -/

variable (cc : BitVec 4)

@[simp] theorem opcodeField_headC : opcodeField (headC hi cc rD) = hi.extractLsb' 0 7 :=
  (BitVec.extractLsb'_append_eq_of_le (by decide)).trans <| (BitVec.extractLsb'_append_eq_of_le (by decide)).trans
    (BitVec.extractLsb'_append_eq_of_le (by decide))

@[simp] theorem rdField_headC : rdField (headC hi cc rD) = rD := BitVec.extractLsb'_append_eq_right

@[simp] theorem ccField_headC : ccField (headC hi cc rD) = cc :=
  (BitVec.extractLsb'_append_eq_of_le (by decide)).trans BitVec.extractLsb'_append_eq_right

@[simp] theorem bit7_headC : bit7 (headC hi cc rD) = false := by
  unfold bit7 headC
  iterate 3 erw [BitVec.getLsbD_append]
  rfl

/-- The condition of its own code. -/
@[simp] theorem condOf_code (cond : Cond) : condOf cond.code = cond := by
  cases cond <;> rfl

/-! ## Format B -/

variable (lo : Byte)

@[simp] theorem opcodeField_byte : opcodeField (hi ++ lo) = hi.extractLsb' 0 7 :=
  BitVec.extractLsb'_append_eq_of_le (by decide)

@[simp] theorem lowByte_byte : lowByte (hi ++ lo) = lo := BitVec.extractLsb'_append_eq_right

end

/-- The words of an instruction decode to it; the immediate word given for one that has none does not matter. -/
theorem decode_encode (i : Instr) (imm : Word) : decode (encodeHead i) ((encodeImm i).getD imm) = .ok i := by
  cases i
  case movB0 | movB1 | movB2 | movB3 | movB4 | movB5 | movB6 | movB7 =>
    simp [decode, decodeB, encodeHead, immFlag_byte]
  case pushR | pushI => simp [decode, decodePush, encodeHead, encodeImm, immFlag_headRR]
  case pop => simp [decode, decodePop, encodeHead, immFlag_headRR]
  case not | neg => simp [decode, decodeU, encodeHead, immFlag_headRR]
  case ldR | ldA | ldD | ldbR | ldbA | ldbD | stR | stA | stD | stbR | stbA | stbD =>
    simp [decode, decodeM, encodeHead, encodeImm, immFlag_headM]
  case jmpR | jmpI | callR | callI => simp [decode, decodeC, encodeHead, encodeImm, immFlag_headC]
  case set => simp [decode, decodeSet, encodeHead, immFlag_headC]
  case ldcp => simp [decode, decodeP, encodeHead, immFlag_headC]
  case ret | pushlr => rfl
  all_goals simp [decode, decodeRR, encodeHead, encodeImm, immFlag_headRR]

end Sys2Proof.Proofs
end

section
/-! Words in RAM. A stored word reads back, and leaves every word that shares no byte with it. -/

namespace Sys2Proof.Proofs

open Sys2Proof.Machine Sys2Proof.Claims

section
variable {s t : State}

theorem storeWord_ramByte_first (s : State) (a v : Word) :
    (s.storeWord a v).ramByte a = firstByte s.cfg.byteOrder v := by
  have hne : a ≠ a + 1#16 := by bv_omega
  rw [State.storeWord_ramByte, if_neg hne, if_pos rfl]

theorem storeWord_ramByte_second (s : State) (a v : Word) :
    (s.storeWord a v).ramByte (a + 1#16) = secondByte s.cfg.byteOrder v := by
  rw [State.storeWord_ramByte, if_pos rfl]

/-- A stored word reads back. -/
theorem storeWord_ramWord_same (s : State) (a v : Word) : (s.storeWord a v).ramWord a = v := by
  rw [State.ramWord, storeWord_ramByte_first, storeWord_ramByte_second]
  exact wordOf_bytes _ v

/-- A byte outside a stored word. -/
theorem storeWord_ramByte_other {a b : Word} (s : State) (v : Word) (h : ¬ Within a .word b) :
    (s.storeWord a v).ramByte b = s.ramByte b := by
  simp only [Within, true_and, not_or] at h
  obtain ⟨hfirst, hsecond⟩ := h
  rw [State.storeWord_ramByte, if_neg hsecond, if_neg hfirst]

/-- A byte outside what a store of either width writes. -/
theorem ramWrite_ramByte_other {a b : Word} {n : Size} (s : State) (v : Word) (h : ¬ Within a n b) :
    (s.ramWrite a n v).ramByte b = s.ramByte b := by
  cases n with
  | byte => exact (State.storeByte_ramByte _ _ _ _).trans (if_neg fun he => h (.inl he))
  | word => exact storeWord_ramByte_other s v h

/-- A word outside a stored word. -/
theorem storeWord_ramWord_other {a b : Word} (s : State) (v : Word) (hfirst : ¬ Within a .word b)
    (hsecond : ¬ Within a .word (b + 1#16)) : (s.storeWord a v).ramWord b = s.ramWord b := by
  rw [State.ramWord, storeWord_ramByte_other s v hfirst, storeWord_ramByte_other s v hsecond]
  rfl

/-- The halves of a word as numbers, by byte order. -/
theorem bytes_toNat (v : Word) :
    (firstByte .little v).toNat = v.toNat % 256 ∧ (secondByte .little v).toNat = v.toNat / 256 ∧
    (firstByte .big v).toNat = v.toNat / 256 ∧ (secondByte .big v).toNat = v.toNat % 256 := by
  have hlow : (v.extractLsb' 0 8).toNat = v.toNat % 256 := by simp
  have hhigh : (v.extractLsb' 8 8).toNat = v.toNat / 256 := by
    rw [BitVec.extractLsb'_toNat, Nat.shiftRight_eq_div_pow]
    exact Nat.mod_eq_of_lt (Nat.div_lt_of_lt_mul v.isLt)
  exact ⟨hlow, hhigh, hhigh, hlow⟩

theorem locate_of_inRam {a : Word} {n : Size} (h : InRam s a n) : locate s a n = .next .ram := by
  obtain ⟨haligned, hperiph, hlimit⟩ := h
  exact locate_of_ram haligned hperiph hlimit

theorem memRead_of_inRam {a : Word} {n : Size} (h : InRam s a n) : memRead s a n = .next (s.ramRead a n, s) := by
  rw [memRead, locate_of_inRam h, andThen_next]

theorem memWrite_of_inRam {a : Word} {n : Size} (v : Word) (h : InRam s a n) :
    memWrite s a n v = .next (s.ramWrite a n v) := by
  rw [memWrite, locate_of_inRam h, andThen_next]

end

/-- Settles O11: the two bytes of the stored word are its halves, and together the word again. -/
theorem writtenWordReadsBackInEitherWidth : Obligations.WrittenWordReadsBackInEitherWidth := by
  intro s a v hram
  obtain ⟨hlittleFirst, hlittleSecond, hbigFirst, hbigSecond⟩ := bytes_toNat v
  refine ⟨s.storeWord a v, memWrite_of_inRam v hram, ?_, fun horder => ?_, fun horder => ?_,
    fun b hb => storeWord_ramByte_other s v hb⟩
  · rw [memRead_of_inRam (s := s.storeWord a v) hram, State.ramRead, storeWord_ramWord_same]
  · rw [storeWord_ramByte_first, storeWord_ramByte_second, horder]
    exact ⟨hlittleFirst, hlittleSecond⟩
  · rw [storeWord_ramByte_first, storeWord_ramByte_second, horder]
    exact ⟨hbigFirst, hbigSecond⟩

end Sys2Proof.Proofs
end

section
/-! What the core's step does with the words at `pc`: it runs a stored instruction, or faults in the order of
60_exceptions.md R234. -/

namespace Sys2Proof.Proofs

open Sys2Proof.Machine Sys2Proof.Claims

section
variable {s : State}

/-! ## An instruction stored at `pc` -/

/-- The number that stands for an instruction's words lays out its words. -/
theorem withFetchWord_wordsAsNumber (s : State) (i : Instr) :
    s.withFetchWord 32 (wordsAsNumber i) =
      (s.layWords (encodeHead i) ((encodeImm i).getD 0#16)).setSched (.core :: s.sched) := by
  have hhead := (encodeHead i).isLt
  have himm := ((encodeImm i).getD 0#16).isLt
  have hfits : wordsAsNumber i % 2 ^ 32 = wordsAsNumber i := by unfold wordsAsNumber; omega
  have hlow : BitVec.ofNat 16 (wordsAsNumber i) = encodeHead i :=
    BitVec.eq_of_toNat_eq (by rw [BitVec.toNat_ofNat, wordsAsNumber]; omega)
  have hhigh : BitVec.ofNat 16 (wordsAsNumber i / 65536) = (encodeImm i).getD 0#16 :=
    BitVec.eq_of_toNat_eq (by rw [BitVec.toNat_ofNat, wordsAsNumber]; omega)
  rw [State.withFetchWord, hfits, hlow, hhigh]

/-- The second of two words laid out at `pc` does not touch the first. -/
theorem layWords_ramWord_first (s : State) (w0 w1 : Word) : (s.layWords w0 w1).ramWord s.pc = w0 := by
  rw [State.layWords, storeWord_ramWord_other _ _ (by simp only [Within]; bv_omega) (by simp only [Within]; bv_omega),
    storeWord_ramWord_same]

theorem layWords_ramWord_second (s : State) (w0 w1 : Word) : (s.layWords w0 w1).ramWord (s.pc + 2#16) = w1 :=
  storeWord_ramWord_same _ _ _

/-- The core runs an instruction whose words are laid out at `pc`, whatever turns are to come. -/
theorem coreStep_layWords (i : Instr) (heven : s.pc.toNat % 2 = 0) (hperiph : s.pc.toNat + 3 < 0xFF00)
    (hlimit : s.pc.toNat + 3 < s.cfg.ramLimit.toNat) (l : List Turn) :
    coreStep ((s.layWords (encodeHead i) ((encodeImm i).getD 0#16)).setSched l) =
      exec i ((s.layWords (encodeHead i) ((encodeImm i).getD 0#16)).setSched l) := by
  have hnext : (s.pc + 2#16).toNat = s.pc.toNat + 2 := by bv_omega
  have hsecond : Fetchable s (s.pc + 2#16) := by unfold Fetchable; omega
  refine coreStep_of_decode ⟨heven, ?_, ?_⟩ (fun _ => hsecond) ?_
  · exact Nat.lt_of_add_right_lt hperiph
  · exact Nat.lt_of_add_right_lt hlimit
  · change decode ((s.layWords _ _).ramWord s.pc) ((s.layWords _ _).ramWord (s.pc + 2#16)) = _
    rw [layWords_ramWord_first, layWords_ramWord_second, decode_encode]

/-- Settles O8: the words laid out at `pc` are those of the encoding, which decodes to the instruction. -/
theorem storedInstructionIsFetchedAndRun : Obligations.StoredInstructionIsFetchedAndRun := by
  intro s i heven hperiph hlimit
  rw [withFetchWord_wordsAsNumber]
  exact coreStep_layWords i heven hperiph hlimit s.sched

/-! ## Faults of fetch and decode -/

theorem fetchWord_odd {a : Word} (h : a.toNat % 2 = 1) : fetchWord s a = .fault (.misalignedAccess a) :=
  if_pos h

theorem fetchWord_peripheral {a : Word} (heven : a.toNat % 2 = 0) (h : 0xFF00 ≤ a.toNat) :
    fetchWord s a = .fault (.fetchFromPeripheral a) := by
  rw [fetchWord, if_neg (by omega), if_pos h]

theorem fetchWord_unbacked {a : Word} (heven : a.toNat % 2 = 0) (hperiph : a.toNat < 0xFF00)
    (h : s.cfg.ramLimit.toNat ≤ a.toNat) : fetchWord s a = .fault (.unbackedAccess a) := by
  rw [fetchWord, if_neg (by omega), if_neg (by omega), if_pos h]

theorem fetchWord_of_fetchable {a : Word} (h : Fetchable s a) : fetchWord s a = .next (s.ramWord a) := by
  obtain ⟨heven, hperiph, hlimit⟩ := h
  exact fetchWord_of_ram heven hperiph hlimit

/-- What is fetched depends neither on the turns to come nor on the draws, so a fault of it is one of the core's step. -/
theorem step_fault_of_fetchInstr {f : Fault} (hturn : CoreTurn s) (h : fetchInstr s = .fault f) :
    step s = .fault f := by
  have hcore : ∀ u, fetchInstr u = fetchInstr s → coreStep u = .fault f := by
    intro u hu
    rw [coreStep, hu, h, andThen_fault]
  rcases hturn with hsched | ⟨rest, hsched⟩ <;> rw [step, hsched] <;> exact hcore _ rfl

theorem fetchInstr_fault_of_first {f : Fault} (h : fetchWord s s.pc = .fault f) : fetchInstr s = .fault f := by
  rw [fetchInstr, h, andThen_fault]

theorem fetchInstr_fault_of_decode {r : Reject} (hpc : Fetchable s s.pc)
    (h : decode (s.ramWord s.pc) 0#16 = .error r) :
    fetchInstr s = .fault (rejectFault (s.ramWord s.pc) r) := by
  rw [fetchInstr, fetchWord_of_fetchable hpc, andThen_next, decoded, h]
  rfl

theorem fetchInstr_fault_of_second {f : Fault} {i : Instr} (hpc : Fetchable s s.pc)
    (himm : immFlag (s.ramWord s.pc) = true) (hi : decode (s.ramWord s.pc) 0#16 = .ok i)
    (h : fetchWord s (s.pc + 2#16) = .fault f) : fetchInstr s = .fault f := by
  rw [fetchInstr, fetchWord_of_fetchable hpc, andThen_next, decoded_of_ok hi, andThen_next, if_neg (by simp [himm]), h,
    andThen_fault]

end

/-! ## The word a rejection names -/

/-- A rejection in the decoder's answer for `w` names `w`. -/
def NamesWord (w : Word) (x : Except Reject Instr) : Prop :=
  ∀ r, x = .error r → r ∈ [.illegalInstruction w, .reservedEncoding w, .undefinedDispWithoutImm w]

section
variable {w : Word}

theorem NamesWord.ok (i : Instr) : NamesWord w (.ok i) := nofun

theorem NamesWord.reserved : NamesWord w (.error (.reservedEncoding w)) := by
  rintro _ ⟨⟩
  simp

theorem NamesWord.ite {p : Prop} [Decidable p] {x y : Except Reject Instr} (hx : NamesWord w x) (hy : NamesWord w y) :
    NamesWord w (if p then x else y) := by
  split
  · exact hx
  · exact hy

variable (imm : Word)

theorem decode_namesWord : NamesWord w (decode w imm) := by
  unfold decode
  split
  case h_4 | h_5 | h_6 | h_7 | h_8 | h_9 | h_10 | h_11 | h_12 | h_17 | h_18 | h_24 | h_29 | h_32 | h_34 =>
    exact .ite .reserved (.ok _)
  case h_19 | h_20 =>
    have hdisp : NamesWord w (.error (.undefinedDispWithoutImm w)) := by
      rintro _ ⟨⟩
      simp
    exact .ite (.ite hdisp (.ok _)) (.ite (.ok _) (.ite .reserved (.ok _)))
  case h_36 =>
    rintro _ ⟨⟩
    simp
  all_goals exact .ite .reserved (.ite (.ok _) (.ite .reserved (.ok _)))

end

/-- Settles O7: each fault is one of the fetch of the instruction, whose word is at `pc`, or at `pc + 2`, which is even
with `pc`. -/
theorem fetchAndDecodeFaultsInOrder : Obligations.FetchAndDecodeFaultsInOrder := by
  intro s hturn
  have hfault : ∀ {f}, fetchInstr s = .fault f → step s = .fault f := step_fault_of_fetchInstr hturn
  refine ⟨fun hodd => hfault (fetchInstr_fault_of_first (fetchWord_odd hodd)),
    fun heven h => hfault (fetchInstr_fault_of_first (fetchWord_peripheral heven h)),
    fun heven hp h => hfault (fetchInstr_fault_of_first (fetchWord_unbacked heven hp h)), ?illegal, ?reserved, ?disp,
    fun hpc himm i hi => ?_⟩
  case illegal | reserved | disp =>
    intro hpc w hw
    obtain rfl : w = s.ramWord s.pc := by simpa using decode_namesWord _ _ hw
    exact hfault (fetchInstr_fault_of_decode hpc hw)
  · have hpcEven : s.pc.toNat % 2 = 0 := hpc.1
    have heven : (s.pc + 2#16).toNat % 2 = 0 := by bv_omega
    exact ⟨fun h => hfault (fetchInstr_fault_of_second hpc himm hi (fetchWord_peripheral heven h)),
      fun hp h => hfault (fetchInstr_fault_of_second hpc himm hi (fetchWord_unbacked heven hp h))⟩

end Sys2Proof.Proofs
end
section
/-! Accesses that fault. The checks of `locate` say which fault an access answers; a load, a store, a push and a pop
answer that fault. -/

namespace Sys2Proof.Proofs

open Sys2Proof.Machine Sys2Proof.Claims

section
variable {s : State} {a ea : Word} {n : Size} {f : Fault}

/-! ## The checks of an access -/

theorem locate_odd (s : State) (h : a.toNat % 2 = 1) : locate s a .word = .fault (.misalignedAccess a) :=
  if_pos ⟨rfl, h⟩

theorem locate_unbacked (ha : n = .word → a.toNat % 2 = 0) (hp : a.toNat < 0xFF00)
    (h : s.cfg.ramLimit.toNat ≤ a.toNat) : locate s a n = .fault (.unbackedAccess a) := by
  rw [locate, if_neg (by rintro ⟨hn, hodd⟩; have := ha hn; omega), if_neg (by omega), if_pos h]

theorem locate_peripheral (s : State) (ha : n = .word → a.toNat % 2 = 0) (hp : 0xFF00 ≤ a.toNat) :
    locate s a n = andThen (selectPeriph a n) (fun p => .next (.device p)) := by
  rw [locate, if_neg (by rintro ⟨hn, hodd⟩; have := ha hn; omega), if_pos hp]

theorem memRead_fault (h : locate s a n = .fault f) : memRead s a n = .fault f := by
  rw [memRead, h, andThen_fault]

theorem memWrite_fault (v : Word) (h : locate s a n = .fault f) : memWrite s a n v = .fault f := by
  rw [memWrite, h, andThen_fault]

/-! ## The registers of the map -/

/-- The addresses from 0xFF00 on where no register is. -/
theorem periphAt_eq_none (hp : 0xFF00 ≤ a.toNat) :
    periphAt a = none ↔ a.toNat = 0xFF01 ∨ 0xFF12 ≤ a.toNat := by
  unfold periphAt
  split
  case h_18 =>
    simp only [imp_false, true_iff] at *
    omega
  all_goals simp [*]

/-- The map lists each register at its address and size. -/
theorem mem_registerMap (p : Periph) : ((periphBase p).toNat, periphSize p) ∈ registerMap := by
  cases p <;> decide

theorem selectPeriph_fault (hp : 0xFF00 ≤ a.toNat) (hmap : (a.toNat, n) ∉ registerMap) :
    selectPeriph a n = .fault
      (if a.toNat = 0xFF01 ∨ 0xFF12 ≤ a.toNat then .unmappedPeripheral a else .peripheralAccessSize a n) := by
  rw [selectPeriph]
  cases hat : periphAt a with
  | none => rw [if_pos ((periphAt_eq_none hp).1 hat)]
  | some p =>
    have hsome : ¬ (a.toNat = 0xFF01 ∨ 0xFF12 ≤ a.toNat) := by simp [← periphAt_eq_none hp, hat]
    have hne : ¬ (a = periphBase p ∧ n = periphSize p) := by
      rintro ⟨rfl, rfl⟩
      exact hmap (mem_registerMap p)
    rw [if_neg hsome]
    exact if_neg hne

end

/-- Settles O13: the fault of `selectPeriph` is that of the access. -/
theorem peripheralSizeAndPlaceAreChecked : Obligations.PeripheralSizeAndPlaceAreChecked := by
  intro s n ea haligned hperiph hmap v
  have hlocate := locate_peripheral s haligned hperiph
  rw [selectPeriph_fault hperiph hmap, andThen_fault] at hlocate
  exact ⟨memRead_fault hlocate, memWrite_fault v hlocate⟩

section
variable {s : State} {i : Instr} {a ea v next : Word} {n : Size} {f : Fault} {rD sp spn : Reg}

/-! ## Instructions whose access faults -/

theorem exec_fault_of_loadsFrom (h : LoadsFrom s i n rD ea next) (hl : locate s ea n = .fault f) :
    exec i s = .fault f := by
  have hread := memRead_fault hl
  have hword {m : AddrMode} (hm : memRead s (m.address s) .word = .fault f) : loadWord rD m s = .fault f := by
    rw [loadWord, hm, andThen_fault]
  have hbyte {m : AddrMode} (hm : memRead s (m.address s) .byte = .fault f) : loadByte rD m s = .fault f := by
    rw [loadByte, hm, andThen_fault]
  cases h with
  | wordIndirect | wordAbsolute | wordDisplaced => exact hword hread
  | byteIndirect | byteAbsolute | byteDisplaced => exact hbyte hread

theorem exec_fault_of_storesTo (h : StoresTo s i n rD ea next) (hl : locate s ea n = .fault f) :
    exec i s = .fault f := by
  have hstore {m : AddrMode} (hm : memWrite s (m.address s) n (s.reg rD) = .fault f) : storeTo n rD m s = .fault f := by
    rw [storeTo, hm, andThen_fault]
  cases h <;> exact hstore (memWrite_fault _ hl)

theorem exec_pushR (h : rD ≠ stackNumber s.cfg spn) :
    exec (.pushR spn rD) s = pushValue (stackNumber s.cfg spn) (s.reg rD) (s.pc + 2#16) s := by
  rw [← stackReg_eq_stackNumber] at h ⊢
  exact if_neg h

theorem exec_pop (h : rD ≠ stackNumber s.cfg spn) :
    exec (.pop spn rD) s = popInto rD (stackNumber s.cfg spn) s := by
  rw [← stackReg_eq_stackNumber] at h ⊢
  exact if_neg h

theorem exec_pushI (s : State) (spn : Reg) (imm : Word) :
    exec (.pushI spn imm) s = pushValue (stackNumber s.cfg spn) imm (s.pc + 4#16) s := by
  rw [← stackReg_eq_stackNumber]
  rfl

/-- A push in any form is `pushValue`. -/
theorem exec_of_pushes (h : Pushes s i sp v next) : exec i s = pushValue sp v next s := by
  cases h with
  | register spn rD hne => exact exec_pushR hne
  | immediate spn => exact exec_pushI s spn v
  | link => rfl

theorem exec_fault_of_pushes (h : Pushes s i sp v next) (hl : locate s (s.reg sp - 2#16) .word = .fault f) :
    exec i s = .fault f := by
  rw [exec_of_pushes h, pushValue, memWrite_fault v hl, andThen_fault]

theorem exec_pop_fault (h : rD ≠ stackNumber s.cfg spn)
    (hl : locate s (s.reg (stackNumber s.cfg spn)) .word = .fault f) : exec (.pop spn rD) s = .fault f := by
  rw [exec_pop h, popInto, memRead_fault hl, andThen_fault]

end

/-- Settles O12: an address is odd or unbacked before the access looks at what is there; a push decrements an odd stack
register to an odd address. -/
theorem oddAndUnbackedAccessesFault : Obligations.OddAndUnbackedAccessesFault := by
  intro s
  refine ⟨fun i rD ea next h hodd => exec_fault_of_loadsFrom h (locate_odd s hodd),
    fun i rD ea next h hodd => exec_fault_of_storesTo h (locate_odd s hodd),
    fun i sp v next h hodd => exec_fault_of_pushes h (locate_odd s (by bv_omega)),
    fun spn rD h hodd => exec_pop_fault h (locate_odd s hodd), fun n ea haligned hlimit hperiph => ?_⟩
  have hl := locate_unbacked haligned hperiph hlimit
  refine ⟨fun i rD next h => exec_fault_of_loadsFrom h hl, fun i rD next h => exec_fault_of_storesTo h hl, ?_, ?_⟩
  · rintro i sp v next rfl h rfl
    exact exec_fault_of_pushes h hl
  · rintro spn rD rfl h rfl
    exact exec_pop_fault h hl

end Sys2Proof.Proofs
end

section
/-! Instructions that are not well formed. Each check of `Instr.wellFormed` is one that the meaning makes before anything
else, or that its access makes. -/

namespace Sys2Proof.Proofs

open Sys2Proof.Machine Sys2Proof.Claims

section
variable {s : State} {imm target : Word} {cond : Cond}

theorem transfer_odd (s : State) (h : target.toNat % 2 = 1) : transfer target s = .fault (.misalignedTarget target) :=
  if_pos h

/-- A target without a meaning is odd, and the condition on it always holds. -/
theorem holds_of_targetHasMeaning_eq_false (h : targetHasMeaning s.cfg cond imm = false) :
    imm.toNat % 2 = 1 ∧ s.holds cond = true := by
  simp only [targetHasMeaning, Bool.or_eq_false_iff, beq_eq_false_iff_ne, bne_eq_false_iff_eq] at h
  obtain ⟨hodd, halways⟩ := h
  refine ⟨by omega, ?_⟩
  rw [State.holds, halways]
  rfl

/-- A count without a meaning faults. -/
theorem withCount_fault (k : Nat → Result State) (h : countHasMeaning s.cfg imm = false) :
    withCount s (.imm imm) k = .fault (.shiftCountOutOfRange imm.toNat) := by
  simp only [countHasMeaning, Bool.or_eq_false_iff, decide_eq_false_iff_not, bne_eq_false_iff_eq] at h
  obtain ⟨hbig, hcfg⟩ := h
  have hnone : shiftCount s.cfg imm.toNat = none := by rw [shiftCount, if_neg hbig, hcfg]
  rw [withCount, Operand.value, hnone]

end

/-- Settles O57: each of the four checks of `wellFormed` is one that `exec` makes itself. -/
theorem illFormedInstructionsAlwaysFault : Obligations.IllFormedInstructionsAlwaysFault := by
  intro i s h
  cases i
  case pushR spn rD | pop spn rD =>
    have heq : rD = s.stackReg spn := by simpa [Instr.wellFormed, State.stackReg] using h
    exact ⟨_, if_pos heq⟩
  case ldA rD imm =>
    have hodd : imm.toNat % 2 = 1 := by simpa [Instr.wellFormed] using h
    exact ⟨_, exec_fault_of_loadsFrom (.wordAbsolute rD imm) (locate_odd s hodd)⟩
  case stA rD imm =>
    have hodd : imm.toNat % 2 = 1 := by simpa [Instr.wellFormed] using h
    exact ⟨_, exec_fault_of_storesTo (.wordAbsolute rD imm) (locate_odd s hodd)⟩
  case jmpI cond imm | callI cond imm =>
    obtain ⟨hodd, hholds⟩ := holds_of_targetHasMeaning_eq_false h
    exact ⟨_, (if_pos hholds).trans (transfer_odd _ hodd)⟩
  case shlRI | shrRI | rolRI | rclRI | sarRI => exact ⟨_, withCount_fault _ h⟩
  all_goals cases h

end Sys2Proof.Proofs
end
section
/-! The frame of the memories and devices. The one access of an instruction is tied to the tables of Safety.lean: a store is
at `storeTarget`, and an instruction without data access makes none. -/

namespace Sys2Proof.Proofs

open Sys2Proof.Machine Sys2Proof.Claims

section
variable {s t u : State} {a b v : Word} {n : Size} {vt : Word × State}

/-! ## Accesses -/

theorem memRead_leavesMemories (h : memRead s a n = .next vt) : vt.2.mem = s.mem ∧ vt.2.dram = s.dram := by
  rcases memRead_eq_next h with ⟨-, rfl⟩ | ⟨p, -, hp⟩
  · exact ⟨rfl, rfl⟩
  · rcases readPeriph_state hp with h | h | ⟨b, rest, -, h⟩ <;> rw [h] <;> exact ⟨rfl, rfl⟩

theorem writePeriph_leavesMemories {p : Periph} (h : writePeriph s p v = .next t) :
    t.mem = s.mem ∧ t.dram = s.dram := by
  cases p
  case uartStatus => cases h
  case uartData =>
    cases h
    rcases uartSend_cases s (v.extractLsb' 0 8) with ⟨-, h⟩ | ⟨-, h⟩ <;> rw [h] <;> exact ⟨rfl, rfl⟩
  case dmaControl =>
    obtain ⟨-, -, -, -, rfl⟩ := dmaStart_eq_next h
    exact ⟨rfl, rfl⟩
  case dmaLocal | dmaRemote | dmaCount =>
    obtain ⟨-, rfl⟩ := dmaParameter_eq_next h
    exact ⟨rfl, rfl⟩
  all_goals
    cases h
    exact ⟨rfl, rfl⟩

theorem memWrite_dram (h : memWrite s a n v = .next t) : t.dram = s.dram := by
  rcases memWrite_eq_next h with ⟨-, rfl⟩ | ⟨p, -, hp⟩
  · cases n <;> rfl
  · exact (writePeriph_leavesMemories hp).2

theorem ramByte_of_mem (h : t.mem = s.mem) (b : Word) : t.ramByte b = s.ramByte b := by
  rw [State.ramByte, State.ramByte, h]

theorem memWrite_ramByte_other (h : memWrite s a n v = .next t) (hb : ¬ Within a n b) :
    t.ramByte b = s.ramByte b := by
  rcases memWrite_eq_next h with ⟨-, rfl⟩ | ⟨p, -, hp⟩
  · exact ramWrite_ramByte_other s v hb
  · exact ramByte_of_mem (writePeriph_leavesMemories hp).1 b

/-! ## Instructions -/

/-- `u` is `s` after the access of the instruction `i` that the tables state. -/
inductive DataAccess (i : Instr) (s : State) : State → Prop where
  | none (htarget : storeTarget s i = none) : DataAccess i s s
  | read {a : Word} {n : Size} {vt : Word × State} (htarget : storeTarget s i = none) (hdata : accessesData i = true)
      (h : memRead s a n = .next vt) : DataAccess i s vt.2
  | write {a v : Word} {n : Size} {u : State} (htarget : storeTarget s i = some (a, n)) (hdata : accessesData i = true)
      (h : memWrite s a n v = .next u) : DataAccess i s u

/-- The memories and devices of the two states are the same. -/
structure SameData (s t : State) : Prop where
  mem : t.mem = s.mem
  dram : t.dram = s.dram
  led : t.led = s.led
  uart : t.uart = s.uart
  timer : t.timer = s.timer
  voices : t.voices = s.voices
  dma : t.dma = s.dma

/-- The core's fields and the draws are no memory and no device. -/
theorem SameData.of_core
    (ht : t = { u with regs := t.regs, flags := t.flags, pc := t.pc, lr := t.lr, draws := t.draws }) : SameData u t := by
  rw [ht]
  exact ⟨rfl, rfl, rfl, rfl, rfl, rfl, rfl⟩

/-- After its access an instruction changes no memory and no device. -/
theorem exec_dataAccess (i : Instr) (h : exec i s = .next t) : ∃ u, DataAccess i s u ∧ SameData u t := by
  cases i
  case pushR spn rD =>
    obtain ⟨-, hpush⟩ := execPushR_eq_next h
    rw [stackReg_eq_stackNumber] at hpush
    obtain ⟨u, hu, rfl⟩ := pushValue_eq_next hpush
    exact ⟨u, .write rfl rfl hu, .of_core rfl⟩
  case pushI spn imm =>
    replace h : execPushI spn imm s = .next t := h
    rw [execPushI, stackReg_eq_stackNumber] at h
    obtain ⟨u, hu, rfl⟩ := pushValue_eq_next h
    exact ⟨u, .write rfl rfl hu, .of_core rfl⟩
  case pushlr =>
    obtain ⟨u, hu, rfl⟩ := pushValue_eq_next h
    exact ⟨u, .write rfl rfl hu, .of_core rfl⟩
  case pop spn rD =>
    obtain ⟨-, hpop⟩ := execPop_eq_next h
    obtain ⟨vt, hv, rfl⟩ := popInto_eq_next hpop
    exact ⟨_, .read rfl rfl hv, .of_core rfl⟩
  case ldR | ldA | ldD =>
    obtain ⟨vt, hv, rfl⟩ := loadWord_eq_next h
    exact ⟨_, .read rfl rfl hv, .of_core rfl⟩
  case ldbR | ldbA | ldbD =>
    obtain ⟨vt, hv, rfl⟩ := loadByte_eq_next h
    exact ⟨_, .read rfl rfl hv, .of_core rfl⟩
  case stR | stA | stD | stbR | stbA | stbD =>
    obtain ⟨u, hu, rfl⟩ := storeTo_eq_next h
    exact ⟨u, .write rfl rfl hu, .of_core rfl⟩
  case jmpR | jmpI =>
    rcases jumpOp_eq_next h with ⟨-, -, rfl⟩ | ⟨-, rfl⟩ <;> exact ⟨s, .none rfl, .of_core rfl⟩
  case callR | callI =>
    rcases callOp_eq_next h with ⟨-, -, rfl⟩ | ⟨-, rfl⟩ <;> exact ⟨s, .none rfl, .of_core rfl⟩
  case ret =>
    obtain ⟨-, rfl⟩ := transfer_eq_next h
    exact ⟨s, .none rfl, .of_core rfl⟩
  case shlRR | shlRI | shrRR | shrRI | sarRR | sarRI =>
    obtain ⟨n, -, rfl⟩ := shiftOp_eq_next h
    exact ⟨s, .none rfl, .of_core rfl⟩
  case rolRR | rolRI =>
    obtain ⟨n, -, rfl⟩ := rolOp_eq_next h
    exact ⟨s, .none rfl, .of_core rfl⟩
  case rclRR | rclRI =>
    obtain ⟨n, -, rfl⟩ := rclOp_eq_next h
    exact ⟨s, .none rfl, .of_core rfl⟩
  case ldcp rD cr =>
    rcases execLdcp_eq_next h with rfl | rfl <;> exact ⟨s, .none rfl, .of_core rfl⟩
  all_goals
    cases h
    exact ⟨s, .none rfl, .of_core rfl⟩

end

/-- Settles O55: the frames of `memRead` and `memWrite`, by the access the tables state. -/
theorem onlyStoredBytesChange : Obligations.OnlyStoredBytesChange := by
  intro i s t h
  obtain ⟨u, hu, hsame⟩ := exec_dataAccess i h
  have hbytes := ramByte_of_mem hsame.mem
  rw [hsame.dram, hsame.led, hsame.uart, hsame.timer, hsame.voices, hsame.dma]
  simp only [hbytes]
  cases hu with
  | none => simp
  | read htarget hdata hread =>
    obtain ⟨hmem, hdram⟩ := memRead_leavesMemories hread
    exact ⟨hdram, fun _ => ramByte_of_mem hmem, by simp [htarget], by simp [hdata]⟩
  | write htarget hdata hwrite =>
    refine ⟨memWrite_dram hwrite, by simp [htarget], fun a n he b hb => ?_, by simp [hdata]⟩
    cases htarget.symm.trans he
    exact memWrite_ramByte_other hwrite hb

end Sys2Proof.Proofs
end
section
/-! The encoding as bytes. What the decoder reads from the bytes of words laid out in either byte order is what it reads
from the words (20_memory.md R54), so the round trip over bytes is the one over words. -/

namespace Sys2Proof.Proofs

open Sys2Proof.Machine Sys2Proof.Claims
open Sys2Proof.Laws.EncodedLength (immFlag_headRR immFlag_headM immFlag_headC immFlag_byte)

/-- Bit 15 of the first word tells whether an immediate word follows. -/
theorem immFlag_encodeHead (i : Instr) : immFlag (encodeHead i) = (encodeImm i).isSome := by
  cases i
  case movB0 | movB1 | movB2 | movB3 | movB4 | movB5 | movB6 | movB7 => exact immFlag_byte _ _
  case ldR | ldA | ldD | ldbR | ldbA | ldbD | stR | stA | stD | stbR | stbA | stbD => exact immFlag_headM _ _ _ _ _
  case jmpR | jmpI | callR | callI | set | ldcp => exact immFlag_headC _ _ _
  case ret | pushlr => rfl
  all_goals exact immFlag_headRR _ _ _

/-- The bytes of the word `w` in memory, lowest address first. -/
def wordBytes (o : ByteOrder) (w : Word) : List Byte := [firstByte o w, secondByte o w]

theorem encodeBytes_eq (o : ByteOrder) (i : Instr) :
    encodeBytes o i = wordBytes o (encodeHead i) ++ (encodeImm i).toList.flatMap (wordBytes o) := rfl

section
variable {o : ByteOrder} {w imm : Word} {i : Instr}

theorem decodeBytes_oneWord (hflag : immFlag w = false) (h : decode w 0#16 = .ok i) (rest : List Byte) :
    decodeBytes o (wordBytes o w ++ rest) = .ok (i, rest) := by
  simp [decodeBytes, wordBytes, wordOf_bytes, h, hflag]

/-- The decoder reads the immediate word only behind a first word that it accepts. -/
theorem decodeBytes_twoWords (hflag : immFlag w = true) (h : decode w imm = .ok i) (rest : List Byte) :
    decodeBytes o (wordBytes o w ++ wordBytes o imm ++ rest) = .ok (i, rest) := by
  rcases decode_sameVerdict w 0#16 imm with ⟨r, -, hr⟩ | ⟨j, k, hj, -, -⟩
  · simp [hr] at h
  · simp [decodeBytes, wordBytes, wordOf_bytes, hj, hflag, h, Except.map]

end

/-- Settles O1: the round trip over words, `decode_encode`, for an instruction of one word and for one of two. -/
theorem decodeOfEncodeIsTheInstruction : Obligations.DecodeOfEncodeIsTheInstruction := by
  intro o i rest
  have hword := decode_encode i 0#16
  have hflag := immFlag_encodeHead i
  rw [encodeBytes_eq]
  cases himm : encodeImm i with
  | none =>
    rw [himm] at hword hflag
    simpa using decodeBytes_oneWord hflag hword rest
  | some imm =>
    rw [himm] at hword hflag
    simpa using decodeBytes_twoWords hflag hword rest

end Sys2Proof.Proofs
end
section
/-! Words by format. The opcode number of a word says which format it is decoded by, and with bit 15 which upper byte
the instruction of that format has in its encoding (30_encoding.md R82 to R92, R95). -/

namespace Sys2Proof.Proofs

open Sys2Proof.Machine Sys2Proof.Claims

/-! ## The fields of a word as numbers -/

section
variable (w : Word)

theorem opcodeField_toNat : (opcodeField w).toNat = w.toNat / 256 % 128 := by
  simp [opcodeField, Nat.shiftRight_eq_div_pow]

theorem immFlag_eq_decide : immFlag w = decide (32768 ≤ w.toNat) := BitVec.msb_eq_decide w

theorem reservedField_toNat : (reservedField w).toNat = w.toNat / 64 % 4 := by
  simp [reservedField, Nat.shiftRight_eq_div_pow]

theorem rsField_toNat : (rsField w).toNat = w.toNat / 8 % 8 := by
  simp [rsField, Nat.shiftRight_eq_div_pow]

theorem rdField_toNat : (rdField w).toNat = w.toNat % 8 := by
  simp [rdField]

theorem lowByte_toNat : (lowByte w).toNat = w.toNat % 256 := by
  simp [lowByte]

theorem bit7_eq_decide : bit7 w = decide (w.toNat / 128 % 2 = 1) := by
  simp [bit7, BitVec.getLsbD, Nat.testBit_eq_decide_div_mod_eq]

theorem dispFlag_eq_decide : dispFlag w = decide (w.toNat / 64 % 2 = 1) := by
  simp [dispFlag, BitVec.getLsbD, Nat.testBit_eq_decide_div_mod_eq]

end

/-! ## A word is made of its fields -/

/-- The upper byte of an encoding: the flag above the opcode number of `w`. -/
def upperByte (flag : Bool) (w : Word) : Byte := BitVec.ofNat 8 (128 * flag.toNat + (opcodeField w).toNat)

section
variable {w : Word}

theorem upperByte_immFlag (w : Word) : upperByte (immFlag w) w = w.extractLsb' 8 8 := by
  apply BitVec.eq_of_toNat_eq
  rw [upperByte, opcodeField_toNat, immFlag_eq_decide, BitVec.toNat_ofNat, BitVec.extractLsb'_toNat,
    Nat.shiftRight_eq_div_pow]
  have := w.isLt
  by_cases h : 32768 ≤ w.toNat <;> simp [h] <;> omega

/-- The bit at `k` as a field of its own. -/
theorem extractLsb'_one (w : Word) (k : Nat) : w.extractLsb' k 1 = BitVec.ofBool (w.getLsbD k) := by
  ext j hj
  obtain rfl : j = 0 := by omega
  simp

section
variable {flag disp : Bool} {rS rD : Reg} {cc : BitVec 4} {v : Byte}

theorem byte_fields (hflag : immFlag w = flag) (hv : lowByte w = v) : upperByte flag w ++ v = w := by
  subst hflag hv
  rw [upperByte_immFlag, lowByte, BitVec.extractLsb'_append_extractLsb'_eq_extractLsb' (by rfl)]
  exact BitVec.extractLsb'_eq_self

theorem headRR_fields (hflag : immFlag w = flag) (hreserved : reservedField w = 0#2) (hrS : rsField w = rS)
    (hrD : rdField w = rD) : headRR (upperByte flag w) rS rD = w := by
  subst hflag hrS hrD
  rw [upperByte_immFlag, headRR, ← hreserved, reservedField, rsField, rdField]
  iterate 3 rw [BitVec.extractLsb'_append_extractLsb'_eq_extractLsb' (by rfl)]
  exact BitVec.extractLsb'_eq_self

theorem headM_fields (hflag : immFlag w = flag) (hdisp : dispFlag w = disp) (hrS : rsField w = rS)
    (hrD : rdField w = rD) :
    headM (upperByte flag w) (BitVec.ofBool (bit7 w)) (BitVec.ofBool disp) rS rD = w := by
  subst hflag hdisp hrS hrD
  rw [upperByte_immFlag, headM, bit7, dispFlag, ← extractLsb'_one, ← extractLsb'_one, rsField, rdField]
  iterate 4 rw [BitVec.extractLsb'_append_extractLsb'_eq_extractLsb' (by rfl)]
  exact BitVec.extractLsb'_eq_self

theorem headC_fields (hflag : immFlag w = flag) (hbit : bit7 w = false) (hcc : ccField w = cc)
    (hrD : rdField w = rD) : headC (upperByte flag w) cc rD = w := by
  subst hflag hcc hrD
  have hzero : 0#1 = w.extractLsb' 7 1 := by
    rw [extractLsb'_one, ← bit7, hbit]
    rfl
  rw [upperByte_immFlag, headC, hzero, ccField, rdField]
  iterate 3 rw [BitVec.extractLsb'_append_extractLsb'_eq_extractLsb' (by rfl)]
  exact BitVec.extractLsb'_eq_self

end

theorem code_condOf (c : BitVec 4) : (condOf c).code = c := by
  revert c
  decide

end

/-! ## The format of an opcode -/

/-- Formats RR and RI (R82). -/
def opcodesRR : List Nat := [1, 2, 13, 14, 15, 16, 21, 25, 26, 27, 28, 31, 32, 34, 36]

/-- Format B (R88). -/
def opcodesB : List Nat := [5, 6, 7, 8, 9, 10, 11, 12]

/-- Format U (R92). -/
def opcodesU : List Nat := [17, 18]

/-- Format M (R86). -/
def opcodesM : List Nat := [19, 20]

/-- Format C of JMP and CALL (R87). -/
def opcodesC : List Nat := [22, 23]

/-- Format Z (R90). -/
def opcodesZ : List Nat := [24, 35]

/-- The opcode numbers no instruction has (R100). -/
def Unassigned (n : Nat) : Prop := n = 0 ∨ n = 30 ∨ 37 ≤ n

/-- PUSH, POP, SET and LDCP are each the only instruction of their layout. -/
theorem opcode_cases (n : Nat) :
    n ∈ opcodesRR ∨ n = 3 ∨ n = 4 ∨ n ∈ opcodesB ∨ n ∈ opcodesU ∨ n ∈ opcodesM ∨ n ∈ opcodesC ∨ n = 33 ∨ n = 29 ∨
      n ∈ opcodesZ ∨ Unassigned n := by
  simp only [opcodesRR, opcodesB, opcodesU, opcodesM, opcodesC, opcodesZ, Unassigned, List.mem_cons, List.not_mem_nil]
  omega

section
variable {w : Word} (imm : Word)

theorem decode_formatRR (h : (opcodeField w).toNat ∈ opcodesRR) :
    ∃ rr ri, decode w imm = decodeRR w imm rr ri ∧
      (∀ rD rS, encode (rr rD rS) = [headRR (upperByte false w) rS rD]) ∧
      ∀ rD v, encode (ri rD v) = [headRR (upperByte true w) 0#3 rD, v] := by
  unfold decode upperByte
  generalize (opcodeField w).toNat = n at h
  fin_cases h <;> exact ⟨_, _, rfl, fun _ _ => rfl, fun _ _ => rfl⟩

theorem decode_push (h : (opcodeField w).toNat = 3) :
    decode w imm = decodePush w imm ∧
      (∀ spn rD, encode (.pushR spn rD) = [headRR (upperByte false w) spn rD]) ∧
      ∀ spn v, encode (.pushI spn v) = [headRR (upperByte true w) spn 0#3, v] := by
  unfold decode upperByte
  rw [h]
  exact ⟨rfl, fun _ _ => rfl, fun _ _ => rfl⟩

theorem decode_pop (h : (opcodeField w).toNat = 4) :
    decode w imm = decodePop w ∧ ∀ spn rD, encode (.pop spn rD) = [headRR (upperByte false w) spn rD] := by
  unfold decode upperByte
  rw [h]
  exact ⟨rfl, fun _ _ => rfl⟩

theorem decode_formatB (h : (opcodeField w).toNat ∈ opcodesB) :
    ∃ mk, decode w imm = decodeB w mk ∧ ∀ v, encode (mk v) = [upperByte false w ++ v] := by
  unfold decode upperByte
  generalize (opcodeField w).toNat = n at h
  fin_cases h <;> exact ⟨_, rfl, fun _ => rfl⟩

theorem decode_formatU (h : (opcodeField w).toNat ∈ opcodesU) :
    ∃ mk, decode w imm = decodeU w mk ∧
      ∀ rD, encode (mk rD) = [headRR (upperByte false w) 0#3 rD] := by
  unfold decode upperByte
  generalize (opcodeField w).toNat = n at h
  fin_cases h <;> exact ⟨_, rfl, fun _ => rfl⟩

/-- The flag `b` is the bit that tells the byte forms from the word forms. -/
theorem decode_formatM (h : (opcodeField w).toNat ∈ opcodesM) :
    ∃ r a d br ba bd, decode w imm = decodeM w imm r a d br ba bd ∧
      (∀ (b : Bool) rD rS, encode ((if b then br else r) rD rS) =
        [headM (upperByte false w) (BitVec.ofBool b) (BitVec.ofBool false) rS rD]) ∧
      (∀ (b : Bool) rD v, encode ((if b then ba else a) rD v) =
        [headM (upperByte true w) (BitVec.ofBool b) (BitVec.ofBool false) 0#3 rD, v]) ∧
      ∀ (b : Bool) rD rS v, encode ((if b then bd else d) rD rS v) =
        [headM (upperByte true w) (BitVec.ofBool b) (BitVec.ofBool true) rS rD, v] := by
  unfold decode upperByte
  generalize (opcodeField w).toNat = n at h
  fin_cases h <;>
    exact ⟨_, _, _, _, _, _, rfl, Bool.rec (fun _ _ => rfl) (fun _ _ => rfl),
      Bool.rec (fun _ _ => rfl) (fun _ _ => rfl), Bool.rec (fun _ _ _ => rfl) (fun _ _ _ => rfl)⟩

theorem decode_formatC (h : (opcodeField w).toNat ∈ opcodesC) :
    ∃ r i, decode w imm = decodeC w imm r i ∧
      (∀ cond rD, encode (r cond rD) = [headC (upperByte false w) cond.code rD]) ∧
      ∀ cond v, encode (i cond v) = [headC (upperByte true w) cond.code 0#3, v] := by
  unfold decode upperByte
  generalize (opcodeField w).toNat = n at h
  fin_cases h <;> exact ⟨_, _, rfl, fun _ _ => rfl, fun _ _ => rfl⟩

theorem decode_set (h : (opcodeField w).toNat = 33) :
    decode w imm = decodeSet w .set ∧ ∀ cond rD, encode (.set cond rD) = [headC (upperByte false w) cond.code rD] := by
  unfold decode upperByte
  rw [h]
  exact ⟨rfl, fun _ _ => rfl⟩

theorem decode_formatP (h : (opcodeField w).toNat = 29) :
    decode w imm = decodeP w .ldcp ∧ ∀ rD cr, encode (.ldcp rD cr) = [headC (upperByte false w) cr rD] := by
  unfold decode upperByte
  rw [h]
  exact ⟨rfl, fun _ _ => rfl⟩

theorem decode_formatZ (h : (opcodeField w).toNat ∈ opcodesZ) :
    ∃ i, decode w imm = decodeZ w i ∧ encode i = [upperByte false w ++ 0#8] := by
  unfold decode upperByte
  generalize (opcodeField w).toNat = n at h
  fin_cases h <;> exact ⟨_, rfl, rfl⟩

theorem decode_unassigned (h : Unassigned (opcodeField w).toNat) : decode w imm = .error (.illegalInstruction w) := by
  unfold decode Unassigned at *
  split
  case h_36 => rfl
  all_goals omega

end

/-! ## Encoding what was decoded -/

/-- The words the decoder used of `w` and the immediate word given. -/
def wordsUsed (w imm : Word) : List Word := if immFlag w then [w, imm] else [w]

/-- An instruction in the decoder's answer is the one those words encode. -/
def ReadsBack (w imm : Word) (x : Except Reject Instr) : Prop := ∀ i, x = .ok i → encode i = wordsUsed w imm

section
variable {w imm : Word}

theorem ReadsBack.error (r : Reject) : ReadsBack w imm (.error r) := nofun

theorem ReadsBack.ite {p : Prop} [Decidable p] {x y : Except Reject Instr} (hpos : p → ReadsBack w imm x)
    (hneg : ¬ p → ReadsBack w imm y) : ReadsBack w imm (if p then x else y) := by
  split
  · exact hpos ‹_›
  · exact hneg ‹_›

theorem ReadsBack.oneWord {i : Instr} {head : Word} (hflag : immFlag w = false) (hi : encode i = [head])
    (hw : head = w) : ReadsBack w imm (.ok i) := by
  rintro _ ⟨⟩
  simp [wordsUsed, hflag, hi, hw]

theorem ReadsBack.twoWords {i : Instr} {head : Word} (hflag : ¬ immFlag w = false) (hi : encode i = [head, imm])
    (hw : immFlag w = true → head = w) : ReadsBack w imm (.ok i) := by
  rintro _ ⟨⟩
  simp_all [wordsUsed]

theorem decodeRR_readsBack {rr : Reg → Reg → Instr} {ri : Reg → Word → Instr}
    (hrr : ∀ rD rS, encode (rr rD rS) = [headRR (upperByte false w) rS rD])
    (hri : ∀ rD v, encode (ri rD v) = [headRR (upperByte true w) 0#3 rD, v]) : ReadsBack w imm (decodeRR w imm rr ri) :=
  .ite (fun _ => .error _) fun hreserved =>
    .ite (fun hflag => .oneWord hflag (hrr _ _) (headRR_fields hflag (not_not.mp hreserved) rfl rfl)) fun hflag =>
      .ite (fun _ => .error _) fun hunused =>
        .twoWords hflag (hri _ _) fun hset => headRR_fields hset (not_not.mp hreserved) (not_not.mp hunused) rfl

theorem decodePush_readsBack (hr : ∀ spn rD, encode (.pushR spn rD) = [headRR (upperByte false w) spn rD])
    (hi : ∀ spn v, encode (.pushI spn v) = [headRR (upperByte true w) spn 0#3, v]) :
    ReadsBack w imm (decodePush w imm) :=
  .ite (fun _ => .error _) fun hreserved =>
    .ite (fun hflag => .oneWord hflag (hr _ _) (headRR_fields hflag (not_not.mp hreserved) rfl rfl)) fun hflag =>
      .ite (fun _ => .error _) fun hunused =>
        .twoWords hflag (hi _ _) fun hset => headRR_fields hset (not_not.mp hreserved) rfl (not_not.mp hunused)

theorem decodePop_readsBack (hpop : ∀ spn rD, encode (.pop spn rD) = [headRR (upperByte false w) spn rD]) :
    ReadsBack w imm (decodePop w) := by
  refine .ite (fun _ => .error _) fun h => ?_
  obtain ⟨hflag, hreserved⟩ : immFlag w = false ∧ reservedField w = 0#2 := by simpa using h
  exact .oneWord hflag (hpop _ _) (headRR_fields hflag hreserved rfl rfl)

theorem decodeB_readsBack {mk : Byte → Instr} (hmk : ∀ v, encode (mk v) = [upperByte false w ++ v]) :
    ReadsBack w imm (decodeB w mk) := by
  refine .ite (fun _ => .error _) fun h => ?_
  have hflag : immFlag w = false := by simpa using h
  exact .oneWord hflag (hmk _) (byte_fields hflag rfl)

theorem decodeU_readsBack {mk : Reg → Instr} (hmk : ∀ rD, encode (mk rD) = [headRR (upperByte false w) 0#3 rD]) :
    ReadsBack w imm (decodeU w mk) := by
  refine .ite (fun _ => .error _) fun h => ?_
  obtain ⟨hflag, hreserved, hunused⟩ : immFlag w = false ∧ reservedField w = 0#2 ∧ rsField w = 0#3 := by simpa using h
  exact .oneWord hflag (hmk _) (headRR_fields hflag hreserved hunused rfl)

theorem decodeM_readsBack {r br : Reg → Reg → Instr} {a ba : Reg → Word → Instr} {d bd : Reg → Reg → Word → Instr}
    (hr : ∀ (b : Bool) rD rS, encode ((if b then br else r) rD rS) =
      [headM (upperByte false w) (BitVec.ofBool b) (BitVec.ofBool false) rS rD])
    (ha : ∀ (b : Bool) rD v, encode ((if b then ba else a) rD v) =
      [headM (upperByte true w) (BitVec.ofBool b) (BitVec.ofBool false) 0#3 rD, v])
    (hd : ∀ (b : Bool) rD rS v, encode ((if b then bd else d) rD rS v) =
      [headM (upperByte true w) (BitVec.ofBool b) (BitVec.ofBool true) rS rD, v]) :
    ReadsBack w imm (decodeM w imm r a d br ba bd) :=
  .ite
    (fun hflag => .ite (fun _ => .error _) fun hdisp =>
      .oneWord hflag (hr _ _ _) (headM_fields hflag (Bool.eq_false_iff.mpr hdisp) rfl rfl))
    fun hflag => .ite
      (fun hdisp => .twoWords hflag (hd _ _ _ _) fun hset => headM_fields hset hdisp rfl rfl)
      fun hdisp => .ite (fun _ => .error _) fun hunused =>
        .twoWords hflag (ha _ _ _) fun hset =>
          headM_fields hset (Bool.eq_false_iff.mpr hdisp) (not_not.mp hunused) rfl

theorem decodeC_readsBack {r : Cond → Reg → Instr} {i : Cond → Word → Instr}
    (hr : ∀ cond rD, encode (r cond rD) = [headC (upperByte false w) cond.code rD])
    (hi : ∀ cond v, encode (i cond v) = [headC (upperByte true w) cond.code 0#3, v]) :
    ReadsBack w imm (decodeC w imm r i) := by
  have hcode := (code_condOf (ccField w)).symm
  refine .ite (fun _ => .error _) fun hbit => ?_
  rw [Bool.not_eq_true] at hbit
  exact .ite (fun hflag => .oneWord hflag (hr _ _) (headC_fields hflag hbit hcode rfl)) fun hflag =>
    .ite (fun _ => .error _) fun hunused =>
      .twoWords hflag (hi _ _) fun hset => headC_fields hset hbit hcode (not_not.mp hunused)

theorem decodeSet_readsBack {mk : Cond → Reg → Instr}
    (hmk : ∀ cond rD, encode (mk cond rD) = [headC (upperByte false w) cond.code rD]) :
    ReadsBack w imm (decodeSet w mk) := by
  refine .ite (fun _ => .error _) fun h => ?_
  obtain ⟨hflag, hbit⟩ : immFlag w = false ∧ bit7 w = false := by simpa using h
  exact .oneWord hflag (hmk _ _) (headC_fields hflag hbit (code_condOf _).symm rfl)

theorem decodeP_readsBack {mk : Reg → CrNum → Instr}
    (hmk : ∀ rD cr, encode (mk rD cr) = [headC (upperByte false w) cr rD]) : ReadsBack w imm (decodeP w mk) := by
  refine .ite (fun _ => .error _) fun h => ?_
  obtain ⟨hflag, hbit⟩ : immFlag w = false ∧ bit7 w = false := by simpa using h
  exact .oneWord hflag (hmk _ _) (headC_fields hflag hbit rfl rfl)

theorem decodeZ_readsBack {i : Instr} (hi : encode i = [upperByte false w ++ 0#8]) : ReadsBack w imm (decodeZ w i) := by
  refine .ite (fun _ => .error _) fun h => ?_
  obtain ⟨hflag, hlow⟩ : immFlag w = false ∧ lowByte w = 0#8 := by simpa using h
  exact .oneWord hflag hi (byte_fields hflag hlow)

theorem decode_readsBack (w imm : Word) : ReadsBack w imm (decode w imm) := by
  rcases opcode_cases (opcodeField w).toNat with h | h | h | h | h | h | h | h | h | h | h
  · obtain ⟨rr, ri, hdecode, hrr, hri⟩ := decode_formatRR imm h
    exact hdecode ▸ decodeRR_readsBack hrr hri
  · obtain ⟨hdecode, hr, hi⟩ := decode_push imm h
    exact hdecode ▸ decodePush_readsBack hr hi
  · obtain ⟨hdecode, hpop⟩ := decode_pop imm h
    exact hdecode ▸ decodePop_readsBack hpop
  · obtain ⟨mk, hdecode, hmk⟩ := decode_formatB imm h
    exact hdecode ▸ decodeB_readsBack hmk
  · obtain ⟨mk, hdecode, hmk⟩ := decode_formatU imm h
    exact hdecode ▸ decodeU_readsBack hmk
  · obtain ⟨r, a, d, br, ba, bd, hdecode, hr, ha, hd⟩ := decode_formatM imm h
    exact hdecode ▸ decodeM_readsBack hr ha hd
  · obtain ⟨r, i, hdecode, hr, hi⟩ := decode_formatC imm h
    exact hdecode ▸ decodeC_readsBack hr hi
  · obtain ⟨hdecode, hmk⟩ := decode_set imm h
    exact hdecode ▸ decodeSet_readsBack hmk
  · obtain ⟨hdecode, hmk⟩ := decode_formatP imm h
    exact hdecode ▸ decodeP_readsBack hmk
  · obtain ⟨i, hdecode, hi⟩ := decode_formatZ imm h
    exact hdecode ▸ decodeZ_readsBack hi
  · exact decode_unassigned imm h ▸ .error _

end

/-- Settles O2: in each format the checked and the read fields make up the word again. -/
theorem encodeOfDecodeIsTheWord : Obligations.EncodeOfDecodeIsTheWord := by
  intro w imm i h
  rw [decode_readsBack w imm i h, wordsUsed, immFlag_eq_decide]
  by_cases hflag : w.toNat < 32768
  · rw [if_pos hflag, decide_eq_false (by omega), if_neg nofun]
  · rw [if_neg hflag, decide_eq_true (by omega), if_pos rfl]

end Sys2Proof.Proofs
end
section
/-! Words that are rejected. Which rejection the decoder answers, and by which field (30_encoding.md R96 to R101). -/

namespace Sys2Proof.Proofs

open Sys2Proof.Machine Sys2Proof.Claims

/-! ## Reserved encodings, format by format -/

section
variable {w : Word} (imm : Word)

theorem decode_reserved_formatRR (hop : (opcodeField w).toNat ∈ opcodesRR)
    (h : reservedField w ≠ 0#2 ∨ immFlag w = true ∧ rsField w ≠ 0#3) :
    decode w imm = .error (.reservedEncoding w) := by
  obtain ⟨rr, ri, hdecode, -⟩ := decode_formatRR imm hop
  rw [hdecode, decodeRR]
  rcases h with h | ⟨hflag, h⟩ <;> simp_all

theorem decode_reserved_push (hop : (opcodeField w).toNat = 3)
    (h : reservedField w ≠ 0#2 ∨ immFlag w = true ∧ rdField w ≠ 0#3) :
    decode w imm = .error (.reservedEncoding w) := by
  rw [(decode_push imm hop).1, decodePush]
  rcases h with h | ⟨hflag, h⟩ <;> simp_all

theorem decode_reserved_pop (hop : (opcodeField w).toNat = 4) (h : immFlag w = true ∨ reservedField w ≠ 0#2) :
    decode w imm = .error (.reservedEncoding w) :=
  (decode_pop imm hop).1.trans (if_pos h)

theorem decode_reserved_formatB (hop : (opcodeField w).toNat ∈ opcodesB) (h : immFlag w = true) :
    decode w imm = .error (.reservedEncoding w) := by
  obtain ⟨mk, hdecode, -⟩ := decode_formatB imm hop
  exact hdecode.trans (if_pos h)

theorem decode_reserved_formatU (hop : (opcodeField w).toNat ∈ opcodesU)
    (h : immFlag w = true ∨ reservedField w ≠ 0#2 ∨ rsField w ≠ 0#3) : decode w imm = .error (.reservedEncoding w) := by
  obtain ⟨mk, hdecode, -⟩ := decode_formatU imm hop
  exact hdecode.trans (if_pos h)

theorem decode_reserved_formatM (hop : (opcodeField w).toNat ∈ opcodesM) (hflag : immFlag w = true)
    (hdisp : dispFlag w = false) (h : rsField w ≠ 0#3) : decode w imm = .error (.reservedEncoding w) := by
  obtain ⟨r, a, d, br, ba, bd, hdecode, -⟩ := decode_formatM imm hop
  simp [hdecode, decodeM, hflag, hdisp, h]

theorem decode_reserved_formatC (hop : (opcodeField w).toNat ∈ opcodesC)
    (h : bit7 w = true ∨ immFlag w = true ∧ rdField w ≠ 0#3) : decode w imm = .error (.reservedEncoding w) := by
  obtain ⟨r, i, hdecode, -⟩ := decode_formatC imm hop
  rw [hdecode, decodeC]
  rcases h with h | ⟨hflag, h⟩ <;> simp_all

theorem decode_reserved_set (hop : (opcodeField w).toNat = 33) (h : immFlag w = true ∨ bit7 w = true) :
    decode w imm = .error (.reservedEncoding w) :=
  (decode_set imm hop).1.trans (if_pos h)

theorem decode_reserved_formatP (hop : (opcodeField w).toNat = 29) (h : immFlag w = true ∨ bit7 w = true) :
    decode w imm = .error (.reservedEncoding w) :=
  (decode_formatP imm hop).1.trans (if_pos h)

theorem decode_reserved_formatZ (hop : (opcodeField w).toNat ∈ opcodesZ) (h : immFlag w = true ∨ lowByte w ≠ 0#8) :
    decode w imm = .error (.reservedEncoding w) := by
  obtain ⟨i, hdecode, -⟩ := decode_formatZ imm hop
  exact hdecode.trans (if_pos h)

/-- R99: the opcodes without an immediate form. -/
theorem decode_reserved_of_immFlag (hflag : immFlag w = true)
    (hop : (opcodeField w).toNat ∈ [4, 17, 18, 33, 24, 35, 29, 5, 6, 7, 8, 9, 10, 11, 12]) :
    decode w imm = .error (.reservedEncoding w) := by
  have hformat : (opcodeField w).toNat = 4 ∨ (opcodeField w).toNat = 33 ∨ (opcodeField w).toNat = 29 ∨
      (opcodeField w).toNat ∈ opcodesU ∨ (opcodeField w).toNat ∈ opcodesZ ∨ (opcodeField w).toNat ∈ opcodesB := by
    simp only [opcodesU, opcodesZ, opcodesB, List.mem_cons, List.not_mem_nil, or_false] at hop ⊢
    omega
  rcases hformat with h | h | h | h | h | h
  · exact decode_reserved_pop imm h (.inl hflag)
  · exact decode_reserved_set imm h (.inl hflag)
  · exact decode_reserved_formatP imm h (.inl hflag)
  · exact decode_reserved_formatU imm h (.inl hflag)
  · exact decode_reserved_formatZ imm h (.inl hflag)
  · exact decode_reserved_formatB imm h hflag

/-- R98: bits 7:6 of formats RR, RI, S and U. -/
theorem decode_reserved_of_reservedField (hreserved : reservedField w ≠ 0#2)
    (hop : (opcodeField w).toNat ∈ [1, 2, 3, 4, 13, 14, 15, 16, 17, 18, 21, 25, 26, 27, 28, 31, 32, 34, 36]) :
    decode w imm = .error (.reservedEncoding w) := by
  have hformat : (opcodeField w).toNat = 3 ∨ (opcodeField w).toNat = 4 ∨ (opcodeField w).toNat ∈ opcodesU ∨
      (opcodeField w).toNat ∈ opcodesRR := by
    simp only [opcodesU, opcodesRR, List.mem_cons, List.not_mem_nil, or_false] at hop ⊢
    omega
  rcases hformat with h | h | h | h
  · exact decode_reserved_push imm h (.inl hreserved)
  · exact decode_reserved_pop imm h (.inr hreserved)
  · exact decode_reserved_formatU imm h (.inr (.inl hreserved))
  · exact decode_reserved_formatRR imm h (.inl hreserved)

/-- R98: bit 7 of formats C and P. -/
theorem decode_reserved_of_bit7 (hbit : bit7 w = true) (hop : (opcodeField w).toNat ∈ [22, 23, 29, 33]) :
    decode w imm = .error (.reservedEncoding w) := by
  have hformat : (opcodeField w).toNat = 33 ∨ (opcodeField w).toNat = 29 ∨ (opcodeField w).toNat ∈ opcodesC := by
    simp only [opcodesC, List.mem_cons, List.not_mem_nil, or_false] at hop ⊢
    omega
  rcases hformat with h | h | h
  · exact decode_reserved_set imm h (.inr hbit)
  · exact decode_reserved_formatP imm h (.inr hbit)
  · exact decode_reserved_formatC imm h (.inl hbit)

/-- R97: `rD` of PUSH, JMP and CALL with an immediate. -/
theorem decode_reserved_of_rdField (hflag : immFlag w = true) (hrD : rdField w ≠ 0#3)
    (hop : (opcodeField w).toNat ∈ [3, 22, 23]) : decode w imm = .error (.reservedEncoding w) := by
  rcases List.mem_cons.mp hop with h | h
  · exact decode_reserved_push imm h (.inr ⟨hflag, hrD⟩)
  · exact decode_reserved_formatC imm h (.inr ⟨hflag, hrD⟩)

end

/-- Settles O5: each clause is a check of the formats whose opcodes it lists. -/
theorem reservedEncodingsAreRejected : Obligations.ReservedEncodingsAreRejected := by
  intro w imm
  have hflag (h : 32768 ≤ w.toNat) : immFlag w = true := by simpa [immFlag_eq_decide] using h
  have hbit (h : w.toNat / 128 % 2 ≠ 0) : bit7 w = true := by simpa [bit7_eq_decide] using h
  have hdisp (h : w.toNat / 64 % 2 = 0) : dispFlag w = false := by simp [dispFlag_eq_decide, h]
  rw [← opcodeField_toNat, ← reservedField_toNat, ← rsField_toNat, ← rdField_toNat, ← lowByte_toNat]
  have hfield {k : Nat} {x : BitVec k} (h : x.toNat ≠ 0) : x ≠ 0#k := by
    rintro rfl
    exact h BitVec.toNat_zero
  exact ⟨fun hge hop => decode_reserved_of_immFlag imm (hflag hge) hop,
    fun hop h => decode_reserved_of_reservedField imm (hfield h) hop,
    fun hop h => decode_reserved_of_bit7 imm (hbit h) hop,
    fun hop h => decode_reserved_formatZ imm hop (.inr (hfield h)),
    fun hop h => decode_reserved_formatU imm hop (.inr (.inr (hfield h))),
    fun hge hop h => decode_reserved_formatRR imm hop (.inr ⟨hflag hge, hfield h⟩),
    fun hge hop hd h => decode_reserved_formatM imm hop (hflag hge) (hdisp hd) (hfield h),
    fun hge hop h => decode_reserved_of_rdField imm (hflag hge) (hfield h) hop⟩

/-! ## Which rejection -/

/-- LD or ST with the displacement flag and no immediate flag (R101). -/
def LoneDisplacement (w : Word) : Prop :=
  (opcodeField w).toNat ∈ opcodesM ∧ immFlag w = false ∧ dispFlag w = true

/-- A rejection in the decoder's answer for `w` is that of a reserved encoding. -/
def ReservedOnly (w : Word) (x : Except Reject Instr) : Prop := ∀ r, x = .error r → r = .reservedEncoding w

section
variable {w : Word}

theorem ReservedOnly.ok (i : Instr) : ReservedOnly w (.ok i) := nofun

theorem ReservedOnly.reserved : ReservedOnly w (.error (.reservedEncoding w)) := by
  rintro _ ⟨⟩
  rfl

theorem ReservedOnly.ite {p : Prop} [Decidable p] {x y : Except Reject Instr} (hx : ReservedOnly w x)
    (hy : ReservedOnly w y) : ReservedOnly w (if p then x else y) := by
  split
  · exact hx
  · exact hy

variable (imm : Word)

theorem decode_loneDisplacement (h : LoneDisplacement w) : decode w imm = .error (.undefinedDispWithoutImm w) := by
  obtain ⟨hop, hflag, hdisp⟩ := h
  obtain ⟨r, a, d, br, ba, bd, hdecode, -⟩ := decode_formatM imm hop
  simp [hdecode, decodeM, hflag, hdisp]

theorem decodeM_reservedOnly {r br : Reg → Reg → Instr} {a ba : Reg → Word → Instr} {d bd : Reg → Reg → Word → Instr}
    (h : ¬ (immFlag w = false ∧ dispFlag w = true)) : ReservedOnly w (decodeM w imm r a d br ba bd) := by
  unfold decodeM
  split
  · rw [if_neg fun hdisp => h ⟨‹_›, hdisp⟩]
    exact .ok _
  · exact .ite (.ok _) (.ite .reserved (.ok _))

theorem decode_reservedOnly (hassigned : ¬ Unassigned (opcodeField w).toNat) (hdisp : ¬ LoneDisplacement w) :
    ReservedOnly w (decode w imm) := by
  rcases opcode_cases (opcodeField w).toNat with h | h | h | h | h | h | h | h | h | h | h
  · obtain ⟨rr, ri, hdecode, -⟩ := decode_formatRR imm h
    exact hdecode ▸ .ite .reserved (.ite (.ok _) (.ite .reserved (.ok _)))
  · exact (decode_push imm h).1 ▸ .ite .reserved (.ite (.ok _) (.ite .reserved (.ok _)))
  · exact (decode_pop imm h).1 ▸ .ite .reserved (.ok _)
  · obtain ⟨mk, hdecode, -⟩ := decode_formatB imm h
    exact hdecode ▸ .ite .reserved (.ok _)
  · obtain ⟨mk, hdecode, -⟩ := decode_formatU imm h
    exact hdecode ▸ .ite .reserved (.ok _)
  · obtain ⟨r, a, d, br, ba, bd, hdecode, -⟩ := decode_formatM imm h
    exact hdecode ▸ decodeM_reservedOnly imm fun hbits => hdisp ⟨h, hbits⟩
  · obtain ⟨r, i, hdecode, -⟩ := decode_formatC imm h
    exact hdecode ▸ .ite .reserved (.ite (.ok _) (.ite .reserved (.ok _)))
  · exact (decode_set imm h).1 ▸ .ite .reserved (.ok _)
  · exact (decode_formatP imm h).1 ▸ .ite .reserved (.ok _)
  · obtain ⟨i, hdecode, -⟩ := decode_formatZ imm h
    exact hdecode ▸ .ite .reserved (.ok _)
  · exact absurd h hassigned

end

theorem loneDisplacement_iff (w : Word) :
    LoneDisplacement w ↔
      ((0x1340 ≤ w.toNat ∧ w.toNat ≤ 0x137F) ∨ (0x13C0 ≤ w.toNat ∧ w.toNat ≤ 0x13FF) ∨
        (0x1440 ≤ w.toNat ∧ w.toNat ≤ 0x147F) ∨ (0x14C0 ≤ w.toNat ∧ w.toNat ≤ 0x14FF)) := by
  simp only [LoneDisplacement, opcodesM, opcodeField_toNat, immFlag_eq_decide, dispFlag_eq_decide, List.mem_cons,
    List.not_mem_nil, or_false, decide_eq_true_eq, decide_eq_false_iff_not]
  omega

/-- Settles O4: a word is unassigned, a lone displacement, or rejected only as reserved. -/
theorem unassignedOpcodesAndLoneDisplacementsAreRejected :
    Obligations.UnassignedOpcodesAndLoneDisplacementsAreRejected := by
  intro w imm
  rw [← loneDisplacement_iff, ← opcodeField_toNat, ← Unassigned]
  by_cases hop : Unassigned (opcodeField w).toNat
  · have hdisp : ¬ LoneDisplacement w := by
      rintro ⟨h, -⟩
      simp only [Unassigned, opcodesM, List.mem_cons, List.not_mem_nil, or_false] at hop h
      omega
    simp [decode_unassigned imm hop, hop, hdisp]
  by_cases hdisp : LoneDisplacement w
  · simp [decode_loneDisplacement imm hdisp, hop, hdisp]
  · have h := decode_reservedOnly imm hop hdisp
    exact ⟨iff_of_false (fun he => nomatch h _ he) hop, iff_of_false (fun he => nomatch h _ he) hdisp⟩

/-! ## One word of each format -/

/-- Settles O3, by evaluating the decoder. -/
theorem wordsOfEachFormatDecode : Obligations.WordsOfEachFormatDecode := by
  unfold Obligations.WordsOfEachFormatDecode
  decide

end Sys2Proof.Proofs
end

section
/-! Addition. The bit formulas of the model for a sum and its flags, under either V_RULE, are those of the exact integer
results, as those for a difference are; so each arithmetic instruction writes what 40_arithmetic.md says. -/

namespace Sys2Proof.Proofs

open Sys2Proof.Machine Sys2Proof.Claims

theorem sumOf_eq (a b : Word) (cin : Bool) : sumOf a b cin = a.toNat + b.toNat + cin.toNat := by
  rw [sumOf, carryIn_eq_toNat]

theorem sumWord_toNat (a b : Word) (cin : Bool) : (sumWord a b cin).toNat = sumOf a b cin % 65536 :=
  BitVec.toNat_ofNat _ _

theorem outOfRangeBit_iff (x : Int) : outOfRangeBit x = true ↔ x < -32768 ∨ 32767 < x := by
  simp only [outOfRangeBit, Bool.or_eq_true, decide_eq_true_eq]

/-- V of an addition by the bit formula says that the exact signed sum does not fit (10_state.md R28). -/
theorem addOverflow_eq (a b : Word) (cin : Bool) :
    addOverflow a b (sumWord a b cin) = outOfRangeBit (a.toInt + b.toInt + cin.toNat) := by
  have hsum := sumWord_toNat a b cin
  rw [sumOf_eq] at hsum
  have hcin := Bool.toNat_le cin
  have ha := a.isLt
  have hb := b.isLt
  rw [Bool.eq_iff_iff, outOfRangeBit_iff]
  simp only [addOverflow, bit15_eq_decide, word_toInt, Bool.and_eq_true, beq_iff_eq, bne_iff_ne, ne_eq, decide_eq_decide]
  split <;> split <;> omega

/-- V of an addition under V_RULE = one_sided: a carry out of bit 14 and none out of bit 15 (10_state.md R28). -/
theorem oneSidedOverflow_eq (a b : Word) (cin : Bool) :
    oneSidedOverflow a b cin =
      (decide (32768 ≤ a.toNat % 32768 + b.toNat % 32768 + cin.toNat) &&
        decide (a.toNat + b.toNat + cin.toNat < 65536)) := by
  rw [oneSidedOverflow, sumOf_eq, carryIn_eq_toNat, Bool.eq_iff_iff]
  simp only [Bool.and_eq_true, decide_eq_true_eq]
  omega

theorem addFlags_eq (cfg : Config) (a b : Word) (cin : Bool) :
    addFlags cfg a b cin = sumFlags cfg.vRule a b cin.toNat := by
  have hsum := sumWord_toNat a b cin
  have hz : zeroFlag (sumWord a b cin) = decide (sumOf a b cin % 65536 = 0) := by
    rw [← hsum, Bool.eq_iff_iff]
    simp only [zeroFlag, beq_iff_eq, decide_eq_true_eq, ← BitVec.toNat_inj, BitVec.toNat_ofNat, Nat.zero_mod]
  have hs : signFlag (sumWord a b cin) = decide (32768 ≤ sumOf a b cin % 65536) := by
    rw [signFlag, bit15_eq_decide, hsum]
  cases hv : cfg.vRule with
  | signedOverflow => simp only [addFlags, sumFlags, hv, hz, hs, addOverflow_eq, sumOf_eq]
  | oneSided => simp only [addFlags, sumFlags, hv, hz, hs, oneSidedOverflow_eq, sumOf_eq]

theorem addOp_eq (s : State) (cin : Bool) (rD : Reg) (op : Operand) :
    addOp cin rD op s = .next (added s rD (op.value s) cin.toNat (op.nextPc s)) := by
  rw [addOp, addFlags_eq, sumWord, sumOf_eq, added]

/-- Settles O15: each form is `addOp` of its carry in and operand. -/
theorem addAndAdcWriteTheSum : Obligations.AddAndAdcWriteTheSum := by
  intro s rD rS imm
  exact ⟨addOp_eq s false rD (.reg rS), addOp_eq s false rD (.imm imm), addOp_eq s s.flags.c rD (.reg rS),
    addOp_eq s s.flags.c rD (.imm imm)⟩

/-- Settles O16: the laws of `subOp`, NEG and `cmpOp` hold under either V_RULE, so under signed_overflow. -/
theorem subtractionsWriteTheDifference : Obligations.SubtractionsWriteTheDifference := by
  intro s rD rS imm _
  refine ⟨?subRR, ?subRI, ?sbbRR, ?sbbRI, execNeg_eq s rD, ?cmpRR, ?cmpRI⟩
  case subRR => exact subOp_eq s false rD (.reg rS)
  case subRI => exact subOp_eq s false rD (.imm imm)
  case sbbRR => exact subOp_eq s s.flags.c rD (.reg rS)
  case sbbRI => exact subOp_eq s s.flags.c rD (.imm imm)
  case cmpRR => exact cmpOp_eq s rD (.reg rS)
  case cmpRI => exact cmpOp_eq s rD (.imm imm)

/-- Settles O17: both formulas say that the exact signed result leaves the range of 16 bits. -/
theorem overflowBitFormulasAreExact : Obligations.OverflowBitFormulasAreExact := by
  intro a b cin
  rw [addOverflow_eq, subOverflow_eq, outOfRangeBit_iff, outOfRangeBit_iff]
  exact ⟨Iff.rfl, Iff.rfl⟩

end Sys2Proof.Proofs
end
section
/-! The stack. A push and a pop in RAM answer one next state each, so a pop after a push is read off the two; the word that
R144 lets a same-register push or pop fault with is its encoding as a number. -/

namespace Sys2Proof.Proofs

open Sys2Proof.Machine Sys2Proof.Claims

section
variable {s t : State} {i : Instr} {sp spn rD : Reg} {v next : Word}

/-! ## Pushes and pops in RAM -/

theorem exec_push_of_inRam (h : Pushes s i sp v next) (hram : InRam s (s.reg sp - 2#16) .word) :
    exec i s = .next (((s.storeWord (s.reg sp - 2#16) v).setReg sp (s.reg sp - 2#16)).setPc next) := by
  rw [exec_of_pushes h, pushValue, memWrite_of_inRam v hram, andThen_next, State.ramWrite]

/-- The parameters, registers and stored word after a push in RAM. -/
theorem push_of_inRam_leaves (h : Pushes s i sp v next) (hram : InRam s (s.reg sp - 2#16) .word)
    (ht : exec i s = .next t) :
    t.cfg = s.cfg ∧ t.reg sp = s.reg sp - 2#16 ∧ t.ramWord (s.reg sp - 2#16) = v ∧ ∀ r, r ≠ sp → t.reg r = s.reg r := by
  rw [exec_push_of_inRam h hram] at ht
  cases ht
  refine ⟨rfl, by simp, storeWord_ramWord_same s _ v, fun r hr => ?_⟩
  rw [State.setPc_reg, setReg_reg, if_neg hr]
  rfl

theorem exec_pop_of_inRam (h : rD ≠ stackNumber s.cfg spn) (hram : InRam s (s.reg (stackNumber s.cfg spn)) .word) :
    exec (.pop spn rD) s =
      .next (((s.setReg rD (s.ramWord (s.reg (stackNumber s.cfg spn)))).setReg (stackNumber s.cfg spn)
        (s.reg (stackNumber s.cfg spn) + 2#16)).setPc (s.pc + 2#16)) := by
  rw [exec_pop h, popInto, memRead_of_inRam hram, andThen_next, State.ramRead, State.afterOne]

end

/-- Settles O27: the new memory is that of the word store. -/
theorem pushStoresAndDecrements : Obligations.PushStoresAndDecrements := by
  intro s i sp v next hpush hram
  exact ⟨(s.storeWord (s.reg sp - 2#16) v).mem, exec_push_of_inRam hpush hram, storeWord_ramWord_same s _ v,
    fun b hb => storeWord_ramByte_other s v hb⟩

/-- Settles O28: a read of RAM changes nothing. -/
theorem popLoadsAndIncrements : Obligations.PopLoadsAndIncrements := fun _ _ _ => exec_pop_of_inRam

/-- Settles O30: the pop reads at the decremented address, where the push stored, and takes the decrement back. -/
theorem popAfterPushRestores : Obligations.PopAfterPushRestores := by
  intro s t u i spn rD v next hpush hram hne ht hu
  obtain ⟨hcfg, hsp, hword, hother⟩ := push_of_inRam_leaves hpush hram ht
  have hram' : InRam t (t.reg (stackNumber t.cfg spn)) .word := by
    rw [InRam, hcfg, hsp]
    exact hram
  rw [exec_pop_of_inRam (by rwa [hcfg]) hram', hcfg, hsp, hword, BitVec.sub_add_cancel] at hu
  cases hu
  refine ⟨by simp [hne], by simp, fun r hr => ?_⟩
  by_cases hrsp : r = stackNumber s.cfg spn
  · simp [hrsp]
  · simp [hr, hrsp, hother]

/-! ## Naming the stack register itself -/

/-- The first word as a number: each field by its place value. -/
theorem headRR_eq_ofNat (hi : Byte) (rS rD : Reg) :
    headRR hi rS rD = BitVec.ofNat 16 (256 * hi.toNat + 8 * rS.toNat + rD.toNat) := by
  apply BitVec.eq_of_toNat_eq
  simp only [headRR, BitVec.toNat_append]
  rw [← Nat.shiftLeft_add_eq_or_of_lt rD.isLt, ← Nat.shiftLeft_add_eq_or_of_lt rS.isLt,
    ← Nat.shiftLeft_add_eq_or_of_lt (0#2).isLt]
  simp only [Nat.shiftLeft_eq, BitVec.toNat_ofNat]
  omega

theorem exec_pushR_same (s : State) (spn : Reg) :
    exec (.pushR spn (stackNumber s.cfg spn)) s =
      .fault (.unspecifiedSameRegister (headRR 0x03#8 spn (stackNumber s.cfg spn))) := by
  rw [← stackReg_eq_stackNumber]
  exact if_pos rfl

theorem exec_pop_same (s : State) (spn : Reg) :
    exec (.pop spn (stackNumber s.cfg spn)) s =
      .fault (.unspecifiedSameRegister (headRR 0x04#8 spn (stackNumber s.cfg spn))) := by
  rw [← stackReg_eq_stackNumber]
  exact if_pos rfl

section
variable {α β : Type} {s : State} {a v : Word} {n : Size} {f : Fault} {p : Periph}

/-- A sequence faults exactly when its first part faults or the rest does on its value. -/
theorem andThen_eq_fault {o : Result α} {k : α → Result β} :
    andThen o k = .fault f ↔ o = .fault f ∨ ∃ a, o = .next a ∧ k a = .fault f := by
  cases o <;> simp [andThen]

theorem selectPeriph_eq_fault (h : selectPeriph a n = .fault f) :
    f = .unmappedPeripheral a ∨ f = .peripheralAccessSize a n := by
  unfold selectPeriph at h
  split at h
  · cases h
    exact .inl rfl
  · split at h <;> cases h
    exact .inr rfl

/-- The faults of the checks of an access. -/
theorem locate_eq_fault (h : locate s a n = .fault f) :
    f = .misalignedAccess a ∨ f = .unmappedPeripheral a ∨ f = .peripheralAccessSize a n ∨ f = .unbackedAccess a := by
  unfold locate at h
  split at h
  · cases h
    exact .inl rfl
  · split at h
    · rcases andThen_eq_fault.1 h with hsel | ⟨p, -, hp⟩
      · rcases selectPeriph_eq_fault hsel with rfl | rfl <;> simp
      · cases hp
    · split at h <;> cases h
      simp

theorem dmaParameter_ne_fault (s : State) (a : Word) (d : Dma) : dmaParameter s a d ≠ .fault f := by
  unfold dmaParameter
  split <;> nofun

/-- The faults of a register write. -/
theorem writePeriph_eq_fault (h : writePeriph s p v = .fault f) :
    f = .peripheralAccessType 0xFF03#16 .write ∨ f = .reservedDmaType v := by
  cases p
  case uartStatus =>
    cases h
    exact .inl rfl
  case dmaControl =>
    replace h : dmaStart s v = .fault f := h
    unfold dmaStart at h
    split at h
    · cases h
      exact .inr rfl
    · split at h
      · cases h
      · split at h <;> cases h
  case dmaLocal | dmaRemote | dmaCount => exact absurd h (dmaParameter_ne_fault _ _ _)
  all_goals cases h

theorem memWrite_ne_sameRegister (s : State) (a v : Word) (n : Size) (w : Word) :
    memWrite s a n v ≠ .fault (.unspecifiedSameRegister w) := by
  intro h
  rcases andThen_eq_fault.1 h with hlocate | ⟨_ | p, -, hplace⟩
  · simpa using locate_eq_fault hlocate
  · cases hplace
  · simpa using writePeriph_eq_fault hplace

end

/-- Settles O29: the register forms check the two numbers before anything else; a push that reaches its store can only
fault as the store does. -/
theorem sameRegisterPushAndPopFault : Obligations.SameRegisterPushAndPopFault := by
  intro s spn
  refine ⟨?_, ?_, fun imm w h => ?_⟩
  · rw [exec_pushR_same, headRR_eq_ofNat]
    rfl
  · rw [exec_pop_same, headRR_eq_ofNat]
    rfl
  · rw [exec_pushI] at h
    rcases andThen_eq_fault.1 h with hwrite | ⟨t, -, ht⟩
    · exact memWrite_ne_sameRegister _ _ _ _ _ hwrite
    · cases ht

end Sys2Proof.Proofs
end

section
/-! MOV. The opcodes of the byte encoding are 5 plus the number of the register, and each means `movByte` of that register;
so the word alone says what it writes, and only `pc` tells it from the general encoding (42_move.md R152). -/

namespace Sys2Proof.Proofs

open Sys2Proof.Machine Sys2Proof.Claims

/-- The zero extension of a byte is its number as a word (30_encoding.md R94). -/
theorem zeroExtendByte_eq_ofNat (k : Byte) : 0#8 ++ k = BitVec.ofNat 16 k.toNat := by
  rw [BitVec.ofNat_toNat, BitVec.setWidth_eq_append (by decide)]
  rfl

theorem movByte_eq (rD : Reg) (k : Byte) (s : State) :
    movByte rD k s = .next ((s.setReg rD (BitVec.ofNat 16 k.toNat)).setPc (s.pc + 2#16)) := by
  rw [movByte, zeroExtendByte_eq_ofNat, State.afterOne]

/-- Settles O22: the general forms are `movOp` of their operand, the byte encodings `movByte` of their register. -/
theorem movWritesTheOperand : Obligations.MovWritesTheOperand := fun s _ _ _ k =>
  ⟨rfl, rfl, movByte_eq 0#3 k s, movByte_eq 1#3 k s, movByte_eq 2#3 k s, movByte_eq 3#3 k s, movByte_eq 4#3 k s,
    movByte_eq 5#3 k s, movByte_eq 6#3 k s, movByte_eq 7#3 k s⟩

/-! ## The byte encoding in the decoder -/

/-- The opcode of a byte move names its register (30_encoding.md R88). -/
theorem decode_byteMove {w : Word} {rD : Reg} (imm : Word) (h : (opcodeField w).toNat = 5 + rD.toNat) :
    ∃ mk, decode w imm = decodeB w mk ∧ ∀ k s, exec (mk k) s = movByte rD k s := by
  unfold decode
  rw [h]
  fin_cases rD <;> exact ⟨_, rfl, fun _ _ => rfl⟩

/-- A byte accepted in format B is the lower byte of the word. -/
theorem decodeB_eq_ok {w : Word} {mk : Byte → Instr} {i : Instr} (h : decodeB w mk = .ok i) : i = mk (lowByte w) := by
  unfold decodeB at h
  split at h <;> cases h
  rfl

theorem lowByte_ofNat (n : Nat) (k : Byte) : lowByte (BitVec.ofNat 16 (n * 256 + k.toNat)) = k := by
  apply BitVec.eq_of_toNat_eq
  have hk := k.isLt
  rw [lowByte_toNat, BitVec.toNat_ofNat]
  omega

theorem opcodeField_ofNat {n : Nat} (hn : n < 128) (k : Byte) :
    (opcodeField (BitVec.ofNat 16 (n * 256 + k.toNat))).toNat = n := by
  have hk := k.isLt
  rw [opcodeField_toNat, BitVec.toNat_ofNat]
  omega

/-- Settles O23: the decoded instruction is `movByte` of the same register and number, so it leaves the state of the general
encoding but for `pc`. -/
theorem movEncodingsAgree : Obligations.MovEncodingsAgree := by
  intro s rD k i t hdecode hmov
  have hop := opcodeField_ofNat (n := 5 + rD.toNat) (by omega) k
  obtain ⟨mk, hformat, hexec⟩ := decode_byteMove 0#16 hop
  obtain rfl := decodeB_eq_ok (hformat.symm.trans hdecode)
  cases hmov
  rw [lowByte_ofNat, hexec, movByte_eq]
  rfl

end Sys2Proof.Proofs
end

section
/-! Logic. Z and S of a result word are a zero test and a bound on its number (10_state.md R26), so `logicResult` and
`testOp` leave the flags that 43_logic.md states; NOT writes the complement to 65535. -/

namespace Sys2Proof.Proofs

open Sys2Proof.Machine Sys2Proof.Claims

theorem zeroFlag_eq_decide (res : Word) : zeroFlag res = decide (res.toNat = 0) := by
  rw [Bool.eq_iff_iff]
  simp only [zeroFlag, beq_iff_eq, decide_eq_true_eq, ← BitVec.toNat_inj, BitVec.toNat_ofNat, Nat.zero_mod]

theorem resultFlags_eq (res : Word) (c : Bool) : resultFlags res c = clearedFlags res.toNat c := by
  rw [resultFlags, clearedFlags, zeroFlag_eq_decide, signFlag, bit15_eq_decide]

theorem logicResult_eq (rD : Reg) (res next : Word) (s : State) :
    logicResult rD res next s =
      .next (((s.setReg rD res).setFlags (clearedFlags res.toNat false)).setPc next) := by
  rw [logicResult, resultFlags_eq]

theorem testOp_eq (rD : Reg) (op : Operand) (s : State) :
    testOp rD op s =
      .next ((s.setFlags (clearedFlags (s.reg rD &&& op.value s).toNat false)).setPc (op.nextPc s)) := by
  rw [testOp, resultFlags_eq]

/-- A word with every bit inverted is its complement to 65535 (43_logic.md R164). -/
theorem complement_eq_ofNat (a : Word) : ~~~a = BitVec.ofNat 16 (65535 - a.toNat) := by
  apply BitVec.eq_of_toNat_eq
  rw [BitVec.toNat_not, BitVec.toNat_ofNat]
  omega

theorem execNot_eq (rD : Reg) (s : State) :
    execNot rD s = logicResult rD (BitVec.ofNat 16 (65535 - (s.reg rD).toNat)) (s.pc + 2#16) s := by
  rw [execNot, complement_eq_ofNat, State.afterOne]

/-- Settles O20: each form is `logicResult` of its bitwise result. -/
theorem logicWritesTheResultAndClearsCarry : Obligations.LogicWritesTheResultAndClearsCarry := by
  intro s rD rS imm result
  refine ⟨?andRR, ?andRI, ?orRR, ?orRI, ?xorRR, ?xorRI, ?not⟩
  case not => exact (execNot_eq rD s).trans (logicResult_eq rD _ _ s)
  all_goals exact logicResult_eq rD _ _ s

/-- Settles O21: both forms are `testOp` of their operand; AND of an immediate differs from it by the register write only. -/
theorem testSetsTheFlagsOfAnd : Obligations.TestSetsTheFlagsOfAnd := by
  intro s rD rS imm
  refine ⟨testOp_eq rD (.reg rS) s, testOp_eq rD (.imm imm) s, fun t hand => ?_⟩
  cases hand
  rfl

end Sys2Proof.Proofs
end

section
/-! Loads and stores. All three addressing modes of an access are one `memRead` or `memWrite` at the effective address
(44_load_store.md R170), so where that address is RAM they answer one next state each. -/

namespace Sys2Proof.Proofs

open Sys2Proof.Machine Sys2Proof.Claims

/-- The extension of LD.b is the number of the byte, unsigned or signed, as a word (44_load_store.md R172). -/
theorem extendByte_eq_extended (e : Extension) (b : Byte) : extendByte e b = extended e b := by
  cases e with
  | zero => exact (BitVec.ofNat_toNat 16 b).symm
  | sign => rfl

section
variable {s : State} {i : Instr} {n : Size} {rD : Reg} {ea next : Word}

/-! ## The access of each form -/

theorem exec_of_loadsFrom_word (h : LoadsFrom s i .word rD ea next) :
    exec i s = andThen (memRead s ea .word) (fun vt => .next ((vt.2.setReg rD vt.1).setPc next)) := by
  cases h with
  | wordIndirect | wordAbsolute | wordDisplaced => rfl

theorem exec_of_loadsFrom_byte (h : LoadsFrom s i .byte rD ea next) :
    exec i s = andThen (memRead s ea .byte) (fun vt =>
      .next ((vt.2.setReg rD (extended s.cfg.ldbExtension (vt.1.extractLsb' 0 8))).setPc next)) := by
  simp only [← extendByte_eq_extended]
  cases h with
  | byteIndirect | byteAbsolute | byteDisplaced => rfl

theorem exec_of_storesTo (h : StoresTo s i n rD ea next) :
    exec i s = andThen (memWrite s ea n (s.reg rD)) (fun t => .next (t.setPc next)) := by
  cases h with
  | wordIndirect | wordAbsolute | wordDisplaced | byteIndirect | byteAbsolute | byteDisplaced => rfl

/-! ## Stores to RAM -/

/-- A store to RAM of either width changes nothing but the memory. -/
theorem ramWrite_eq_setMem (s : State) (a : Word) (n : Size) (v : Word) :
    s.ramWrite a n v = s.setMem (s.ramWrite a n v).mem := by
  cases n with
  | byte | word => rfl

/-- A stored byte is the low 8 bits of the word it is taken from (44_load_store.md R174). -/
theorem ramWrite_byte_ramByte_toNat (s : State) (a v : Word) :
    ((s.ramWrite a .byte v).ramByte a).toNat = v.toNat % 256 := by
  obtain ⟨hlow, -, -, -⟩ := bytes_toNat v
  rw [State.ramWrite, State.storeByte_ramByte, if_pos rfl]
  exact hlow

theorem exec_of_storesTo_of_inRam (h : StoresTo s i n rD ea next) (hram : InRam s ea n) :
    exec i s = .next ((s.ramWrite ea n (s.reg rD)).setPc next) := by
  rw [exec_of_storesTo h, memWrite_of_inRam _ hram, andThen_next]

end

/-- Settles O32: the new memory is that of the RAM write of the stored width. -/
theorem storesToRam : Obligations.StoresToRam := by
  intro s i n rD ea next hstore hram
  refine ⟨(s.ramWrite ea n (s.reg rD)).mem, ?_⟩
  rw [← ramWrite_eq_setMem]
  refine ⟨exec_of_storesTo_of_inRam hstore hram, ?_, ?_, fun b hb => ramWrite_ramByte_other s _ hb⟩
  · rintro rfl
    exact storeWord_ramWord_same s ea _
  · rintro rfl
    exact ramWrite_byte_ramByte_toNat s ea _

/-- Settles O31: a read of RAM changes nothing, and a byte read stands in the low 8 bits of the value. -/
theorem loadsFromRam : Obligations.LoadsFromRam := by
  intro s i rD ea next
  refine ⟨fun hload hram => ?_, fun hload hram => ?_⟩
  · rw [exec_of_loadsFrom_word hload, memRead_of_inRam hram, andThen_next]
    rfl
  · have hbyte : (s.ramRead ea .byte).extractLsb' 0 8 = s.ramByte ea := BitVec.extractLsb'_append_eq_right
    rw [exec_of_loadsFrom_byte hload, memRead_of_inRam hram, andThen_next, hbyte]

end Sys2Proof.Proofs
end

section
/-! Control transfer. Both forms of JMP and of CALL are one `transfer` under the condition, which succeeds exactly at an
even target (45_control.md R186). Under the printed table a condition is the expression of its row, and after CMP or SUB
the flags in that expression are those of the exact difference, so each row is a comparison (R180, R181). -/

namespace Sys2Proof.Proofs

open Sys2Proof.Machine Sys2Proof.Claims

section
variable {s t : State} {i : Instr} {cond : Cond} {target next : Word}

/-! ## Jumps, calls and returns -/

theorem transfer_even (s : State) (h : target.toNat % 2 = 0) : transfer target s = .next (s.setPc target) :=
  if_neg (by omega)

/-- What a transfer from `u` under the condition `c` answers, when `v` is where an untaken one goes on (45_control.md R182,
R183, R186). -/
theorem outcome_of_conditional_transfer {c : Bool} {u v : State} {r : Result State}
    (h : r = if c = true then transfer target u else .next v) :
    (c = true → target.toNat % 2 = 0 → r = .next (u.setPc target)) ∧
    (c = true → target.toNat % 2 = 1 → r = .fault (.misalignedTarget target)) ∧
    (c = false → r = .next v) := by
  refine ⟨fun htaken heven => ?_, fun htaken hodd => ?_, fun huntaken => ?_⟩
  · rw [h, if_pos htaken, transfer_even u heven]
  · rw [h, if_pos htaken, transfer_odd u hodd]
  · rw [h, if_neg (Bool.eq_false_iff.1 huntaken)]

theorem exec_of_jumps (h : Jumps s i cond target next) :
    exec i s = if s.holds cond = true then transfer target s else .next (s.setPc next) := by
  cases h with
  | register | immediate => rfl

theorem exec_of_calls (h : Calls s i cond target next) :
    exec i s = if s.holds cond = true then transfer target (s.setLr next) else .next (s.setPc next) := by
  cases h with
  | register | immediate => rfl

/-- The address a CALL saves is past the instruction. -/
theorem next_of_calls (h : Calls s i cond target next) : next = s.pc + BitVec.ofNat 16 (byteLength i) := by
  cases h with
  | register | immediate => rfl

/-- A taken CALL that completes leaves the address past it in `LR`. -/
theorem lr_of_taken_call (h : Calls s i cond target next) (htaken : s.holds cond = true) (hexec : exec i s = .next t) :
    t.lr = next := by
  rw [exec_of_calls h, if_pos htaken] at hexec
  obtain ⟨-, rfl⟩ := transfer_eq_next hexec
  rfl

end

/-- Settles O34: a taken JMP is `transfer` to its target. -/
theorem jumpGoesToItsTarget : Obligations.JumpGoesToItsTarget := fun _ _ _ _ _ h =>
  outcome_of_conditional_transfer (exec_of_jumps h)

/-- Settles O35: a taken CALL is `transfer` to its target from the state with `LR` written. -/
theorem callLinksAndGoesToItsTarget : Obligations.CallLinksAndGoesToItsTarget := fun _ _ _ _ _ h =>
  outcome_of_conditional_transfer (exec_of_calls h)

/-- Settles O36: RET is `transfer` to `LR`. -/
theorem retGoesToTheLink : Obligations.RetGoesToTheLink := fun s => ⟨transfer_even s, transfer_odd s⟩

/-- Settles O37: the address the CALL saved is even, because an instruction is 2 or 4 bytes long. -/
theorem retResumesAfterTheCall : Obligations.RetResumesAfterTheCall := by
  intro s t u i cond target next hcall hpc htaken hexec hlr
  have hlink : u.lr = next := hlr.trans (lr_of_taken_call hcall htaken hexec)
  have heven : next.toNat % 2 = 0 := by
    rw [next_of_calls hcall]
    exact nextPc_even i hpc
  subst hlink
  obtain ⟨hret, -⟩ := retGoesToTheLink u
  exact hret heven

theorem exec_set (s : State) (cond : Cond) (rD : Reg) :
    exec (.set cond rD) s =
      .next ((s.setReg rD (if s.holds cond = true then 1#16 else 0#16)).setPc (s.pc + 2#16)) := rfl

/-- Settles O38: the two values of the one register write. -/
theorem setWritesTheCondition : Obligations.SetWritesTheCondition := by
  intro s cond rD
  rw [exec_set]
  refine ⟨fun hholds => ?_, fun hfails => ?_⟩
  · rw [if_pos hholds]
  · rw [if_neg (Bool.eq_false_iff.1 hfails)]

/-! ## The printed condition table -/

section
variable {f : Flags} {a b : FlagExpr} {n : FlagName}

theorem evalExpr_isClear : evalExpr f (.isClear n) = true ↔ f.get n = false :=
  iff_of_eq (Bool.not_eq_true' _)

theorem evalExpr_sameSV : evalExpr f .sameSV = true ↔ f.s = f.v := beq_iff_eq

theorem evalExpr_differSV : evalExpr f .differSV = true ↔ f.s ≠ f.v := bne_iff_ne

theorem evalExpr_both : evalExpr f (.both a b) = true ↔ evalExpr f a = true ∧ evalExpr f b = true :=
  Bool.and_eq_true_iff

theorem evalExpr_either : evalExpr f (.either a b) = true ↔ evalExpr f a = true ∨ evalExpr f b = true :=
  Bool.or_eq_true_iff

end

/-- Each row of the printed table is the expression the manual prints for it (45_control.md R180). -/
theorem evalExpr_printedCondTable (f : Flags) (cond : Cond) :
    evalExpr f Config.printedCondTable[cond.code.toNat] = true ↔ printedCondition f cond := by
  cases cond
  case nv => exact iff_of_false Bool.false_ne_true not_false
  case al => exact iff_of_true rfl trivial
  case eq | os | n | cs => exact Iff.rfl
  case ne | oc | p | cc => exact evalExpr_isClear
  case ge => exact evalExpr_sameSV
  case l => exact evalExpr_differSV
  case hi => exact evalExpr_both.trans (and_congr Iff.rfl evalExpr_isClear)
  case ls => exact evalExpr_both.trans (and_congr evalExpr_isClear Iff.rfl)
  case g => exact evalExpr_both.trans (and_congr evalExpr_sameSV evalExpr_isClear)
  case le => exact evalExpr_either.trans (or_congr Iff.rfl evalExpr_differSV)

/-- Settles O33: row by row. -/
theorem conditionsArePrintedExpressions : Obligations.ConditionsArePrintedExpressions := by
  intro s cond htable
  simp only [State.holds, htable]
  exact evalExpr_printedCondTable s.flags cond

/-! ## The conditions after a comparison -/

/-- A clear flag denies what the set flag says. -/
theorem eq_false_iff_not_of_iff {flag : Bool} {p : Prop} (h : flag = true ↔ p) : flag = false ↔ ¬ p :=
  Bool.eq_false_iff.trans (not_congr h)

section
variable (polarity : CarryPolarity) (a b : Word)

/-- Z after a comparison is equality. -/
theorem differenceFlags_z : (differenceFlags polarity a b 0).z = true ↔ a = b := by
  have ha := a.isLt
  have hb := b.isLt
  simp only [differenceFlags, decide_eq_true_eq, ← BitVec.toNat_inj]
  omega

/-- S after a comparison is bit 15 of the difference. -/
theorem differenceFlags_s : (differenceFlags polarity a b 0).s = (a - b).getLsbD 15 := by
  have ha := a.isLt
  have hb := b.isLt
  simp only [differenceFlags, bit15_eq_decide, decide_eq_decide, BitVec.toNat_sub]
  omega

/-- V after a comparison says that the signed difference does not fit 16 bits. -/
theorem differenceFlags_v :
    (differenceFlags polarity a b 0).v = true ↔ a.toInt - b.toInt < -32768 ∨ 32767 < a.toInt - b.toInt := by
  simp only [differenceFlags, outOfRangeBit_iff, Int.natCast_zero, Int.sub_zero]

/-- S is the sign of the signed difference where that fits and its opposite where it does not, so S and V together give
the signed order. -/
theorem differenceFlags_s_eq_v :
    (differenceFlags polarity a b 0).s = (differenceFlags polarity a b 0).v ↔ b.toInt ≤ a.toInt := by
  have ha := a.isLt
  have hb := b.isLt
  rw [Bool.eq_iff_iff, differenceFlags_v, differenceFlags_s, bit15_eq_decide, decide_eq_true_eq, BitVec.toNat_sub,
    word_toInt, word_toInt]
  split <;> split <;> omega

theorem differenceFlags_c_borrow : (differenceFlags .borrow a b 0).c = true ↔ a.toNat < b.toNat := by
  simp only [differenceFlags, decide_eq_true_eq]
  omega

theorem differenceFlags_c_notBorrow : (differenceFlags .notBorrow a b 0).c = true ↔ b.toNat ≤ a.toNat := by
  simp only [differenceFlags, decide_eq_true_eq]
  omega

end

section
variable {s t : State} {i : Instr} {rD : Reg} {b : Word}

theorem exec_of_compares (h : Compares s i rD b) :
    ∃ op : Operand, op.value s = b ∧ (exec i s = cmpOp rD op s ∨ exec i s = subOp false rD op s) := by
  cases h with
  | cmpRR rD rS => exact ⟨.reg rS, rfl, .inl rfl⟩
  | cmpRI => exact ⟨.imm b, rfl, .inl rfl⟩
  | subRR rD rS => exact ⟨.reg rS, rfl, .inr rfl⟩
  | subRI => exact ⟨.imm b, rfl, .inr rfl⟩

/-- CMP and SUB leave the flags of the difference of the values before, and the parameters. -/
theorem flags_of_compares (h : Compares s i rD b) (hexec : exec i s = .next t) :
    t.flags = differenceFlags s.cfg.subCarry (s.reg rD) b 0 ∧ t.cfg = s.cfg := by
  obtain ⟨op, rfl, hcmp | hsub⟩ := exec_of_compares h
  · cases (hcmp.trans (cmpOp_eq s rD op)).symm.trans hexec
    exact ⟨rfl, rfl⟩
  · cases (hsub.trans (subOp_eq s false rD op)).symm.trans hexec
    exact ⟨rfl, rfl⟩

/-- Under the printed table a condition after CMP or SUB is its printed expression on the flags of the difference. -/
theorem holds_of_compares (h : Compares s i rD b) (htable : s.cfg.condTable = Config.printedCondTable)
    (hexec : exec i s = .next t) (cond : Cond) :
    t.holds cond = true ↔ printedCondition (differenceFlags s.cfg.subCarry (s.reg rD) b 0) cond := by
  obtain ⟨hflags, hcfg⟩ := flags_of_compares h hexec
  rw [← hflags]
  exact conditionsArePrintedExpressions t cond (hcfg ▸ htable)

end

/-- Settles O18: each printed expression, read through what the four flags of a difference say; V_RULE does not enter a
subtraction. -/
theorem conditionsAfterCompare : Obligations.ConditionsAfterCompare := by
  intro s t i rD b hcompare htable _ hexec
  have hcond := holds_of_compares hcompare htable hexec
  generalize s.reg rD = a at hcond ⊢
  generalize s.cfg.subCarry = polarity at hcond ⊢
  have hz := differenceFlags_z polarity a b
  have hnz := eq_false_iff_not_of_iff hz
  have hs := differenceFlags_s polarity a b
  have hv := differenceFlags_v polarity a b
  have hge := differenceFlags_s_eq_v polarity a b
  have hl := (not_congr hge).trans Int.not_le
  refine ⟨(hcond .eq).trans hz, (hcond .ne).trans hnz, (hcond .ge).trans hge, (hcond .l).trans hl, ?g, ?le,
    (hcond .p).trans (Eq.congr_left hs), (hcond .n).trans (Eq.congr_left hs),
    (hcond .os).trans hv, (hcond .oc).trans (eq_false_iff_not_of_iff hv), ?borrow, ?notBorrow⟩
  case g =>
    refine (hcond .g).trans ((and_congr hge hnz).trans ?_)
    rw [← BitVec.toInt_inj]
    omega
  case le =>
    refine (hcond .le).trans ((or_congr hz hl).trans ?_)
    rw [← BitVec.toInt_inj]
    omega
  case borrow =>
    rintro rfl
    have hc := differenceFlags_c_borrow a b
    have hnc := (eq_false_iff_not_of_iff hc).trans Nat.not_lt
    refine ⟨(hcond .cs).trans hc, (hcond .cc).trans hnc, (hcond .hi).trans ((and_congr hc hnz).trans ?_),
      (hcond .ls).trans ((and_congr hnc hz).trans ?_)⟩
    all_goals
      rw [← BitVec.toNat_inj]
      omega
  case notBorrow =>
    rintro rfl
    have hc := differenceFlags_c_notBorrow a b
    have hnc := (eq_false_iff_not_of_iff hc).trans Nat.not_le
    refine ⟨(hcond .cs).trans hc, (hcond .cc).trans hnc, (hcond .hi).trans ((and_congr hc hnz).trans ?_),
      Bool.eq_false_iff.2 fun hls => ?_⟩
    · rw [← BitVec.toNat_inj]
      omega
    · obtain ⟨hlt, rfl⟩ := ((hcond .ls).trans (and_congr hnc hz)).1 hls
      exact Nat.lt_irrefl _ hlt

end Sys2Proof.Proofs
end

section
/-! Shifts and rotates. Every form is `withCount` of one result word and one carry per instruction; below 16 these are
the numbers of 46_shift_rotate.md R201 to R205, and from 16 on R206 reads them off what the word does at a large count. A
rotation adds the bits that leave the ring at its top to those shifted up, of 16 bits under ROL and of 17 under RCL. -/

namespace Sys2Proof.Proofs

open Sys2Proof.Machine Sys2Proof.Claims

/-! ## The result and the carry of each instruction -/

/-- What the model leaves in `rD` at the count `n`. -/
def shiftWord (k : ShiftKind) (c : Bool) (a : Word) (n : Nat) : Word :=
  match k with
  | .shl => shiftLeft a n
  | .shr => shiftRight a n
  | .sar => shiftArith a n
  | .rol => rotate16 a n
  | .rcl => (rclRing c a n).extractLsb' 0 16

/-- What the model leaves in C at the count `n`, where `draw` numbers the free value. -/
def shiftCarryOut (k : ShiftKind) (c : Bool) (a : Word) (n draw : Nat) : Bool :=
  match k with
  | .shl | .shr | .sar => Config.shiftCarry draw
  | .rol => false
  | .rcl => (rclRing c a n).getLsbD 16

/-- The state after a shift or rotate by the count `m`, as the model computes it. -/
def afterShift (s : State) (k : ShiftKind) (rD : Reg) (m : Nat) (next : Word) : State :=
  shifted s k rD (shiftWord k s.flags.c (s.reg rD) m).toNat (shiftCarryOut k s.flags.c (s.reg rD) m s.draws) next

section
variable {s t : State} {i : Instr} {k : ShiftKind} {rD : Reg} {n next : Word} {m : Nat}

/-- A result given as a word is the model's `shiftResult`, and the free values drawn are counted. -/
theorem shifted_toNat (s : State) (k : ShiftKind) (rD : Reg) (res : Word) (c : Bool) (next : Word) :
    shifted s k rD res.toNat c next = { shiftResult rD res c next s with draws := s.draws + shiftDraws k } := by
  rw [shifted, shiftResult, resultFlags_eq, BitVec.ofNat_toNat, BitVec.setWidth_eq]

theorem exec_of_shifts (h : Shifts s i k rD n next) :
    ∃ op : Operand, op.value s = n ∧ exec i s = withCount s op (fun m => .next (afterShift s k rD m next)) := by
  simp only [afterShift, shifted_toNat]
  cases h with
  | shlRR rD rS | shrRR rD rS | sarRR rD rS | rolRR rD rS | rclRR rD rS => exact ⟨.reg rS, rfl, rfl⟩
  | shlRI | shrRI | sarRI | rolRI | rclRI => exact ⟨.imm n, rfl, rfl⟩

/-- A count with a meaning is the count of the shift. -/
theorem exec_of_shifts_of_some (h : Shifts s i k rD n next) (hcount : shiftCount s.cfg n.toNat = some m) :
    exec i s = .next (afterShift s k rD m next) := by
  obtain ⟨op, rfl, hexec⟩ := exec_of_shifts h
  rw [hexec, withCount, hcount]

/-- A count without a meaning faults. -/
theorem exec_of_shifts_of_none (h : Shifts s i k rD n next) (hcount : shiftCount s.cfg n.toNat = none) :
    exec i s = .fault (.shiftCountOutOfRange n.toNat) := by
  obtain ⟨op, rfl, hexec⟩ := exec_of_shifts h
  rw [hexec, withCount, hcount]

theorem afterShift_reg_same (s : State) (k : ShiftKind) (rD : Reg) (m : Nat) (next : Word) :
    (afterShift s k rD m next).reg rD = shiftWord k s.flags.c (s.reg rD) m := by
  rw [afterShift, shifted_toNat]
  exact (setReg_reg s rD rD _).trans (if_pos rfl)

/-- Counts from 16 on are what SHIFT_COUNT_BIG makes of them. -/
theorem shiftCount_of_ge {c : Config} (h : 16 ≤ m) :
    (c.shiftCountBig = .fault → shiftCount c m = none) ∧
    (c.shiftCountBig = .masked → shiftCount c m = some (m % 16)) ∧
    (c.shiftCountBig = .mathematical → shiftCount c m = some m) := by
  rw [shiftCount, if_neg (Nat.not_lt.2 h)]
  refine ⟨fun hbig => ?_, fun hbig => ?_, fun hbig => ?_⟩
  all_goals rw [hbig]

end

/-! ## Rotations -/

/-- The bits shifted up and those that left at the top share no position, so the `or` of the two is their sum. -/
theorem rotateLeft_toNat {w n : Nat} (x : BitVec w) (h : n < w) :
    (x.rotateLeft n).toNat = x.toNat * 2 ^ n % 2 ^ w + x.toNat / 2 ^ (w - n) := by
  have hsplit : 2 ^ w = 2 ^ (w - n) * 2 ^ n := by rw [← Nat.pow_add, Nat.sub_add_cancel h.le]
  have hlow : x.toNat / 2 ^ (w - n) < 2 ^ n := Nat.div_lt_of_lt_mul (hsplit ▸ x.isLt)
  rw [BitVec.toNat_rotateLeft, Nat.mod_eq_of_lt h, Nat.shiftLeft_eq, Nat.shiftRight_eq_div_pow, hsplit,
    Nat.mul_mod_mul_right, ← Nat.shiftLeft_eq, Nat.shiftLeft_add_eq_or_of_lt hlow]

/-- ROL moves bit `j` to bit `(j + n) mod 16` (46_shift_rotate.md R203). -/
theorem rotate16_getLsbD {j n : Nat} (a : Word) (hj : j < 16) (hn : n < 16) :
    (rotate16 a n).getLsbD ((j + n) % 16) = a.getLsbD j := by
  rw [rotate16, BitVec.getLsbD_rotateLeft_of_le hn]
  by_cases hwrap : j + n < 16
  · have hpos : (j + n) % 16 = j + n := Nat.mod_eq_of_lt hwrap
    simp [hpos, hwrap]
  · have hpos : (j + n) % 16 = j + n - 16 := by omega
    have hback : 16 - n + (j + n - 16) = j := by omega
    have hlt : j + n - 16 < n := by omega
    simp [hpos, hback, hlt]

/-- The ring of RCL before any step, as a number: C is bit 16 (46_shift_rotate.md R204). -/
theorem ring_toNat (c : Bool) (a : Word) : (bitOf c ++ a).toNat = c.toNat * 65536 + a.toNat := by
  rw [BitVec.toNat_append, ← Nat.shiftLeft_add_eq_or_of_lt a.isLt, Nat.shiftLeft_eq, bitOf, BitVec.toNat_ofBool]

theorem rclRing_toNat {n : Nat} (c : Bool) (a : Word) (h : n < 17) :
    (rclRing c a n).toNat =
      (c.toNat * 65536 + a.toNat) * 2 ^ n % 131072 + (c.toNat * 65536 + a.toNat) / 2 ^ (17 - n) := by
  rw [rclRing, rotate17, rotateLeft_toNat _ h, ring_toNat]
  rfl

theorem shiftWord_rcl_toNat {n : Nat} (c : Bool) (a : Word) (h : n < 17) :
    (shiftWord .rcl c a n).toNat = shiftedValue .rcl c a n := by
  rw [shiftWord, BitVec.extractLsb'_toNat, rclRing_toNat c a h]
  rfl

theorem shiftCarryOut_rcl {n : Nat} (c : Bool) (a : Word) (draw : Nat) (h : n < 17) :
    shiftCarryOut .rcl c a n draw = shiftedCarry .rcl c a n draw := by
  have hbit : (rclRing c a n).getLsbD 16 = decide (65536 ≤ (rclRing c a n).toNat) :=
    (BitVec.msb_eq_getLsbD_last _).symm.trans (BitVec.msb_eq_decide _)
  rw [shiftCarryOut, hbit, rclRing_toNat c a h, shiftedCarry]

/-! ## Counts below 16 -/

theorem shiftArith_toNat (a : Word) (n : Nat) : (shiftArith a n).toNat = (a.toInt / 2 ^ n % 65536).toNat := by
  rw [shiftArith, ← BitVec.ofInt_toInt (x := a.sshiftRight n), BitVec.toNat_ofInt, BitVec.toInt_sshiftRight,
    Int.shiftRight_eq_div_pow, Int.natCast_pow]
  rfl

/-- The word the model computes is the number of the rule. -/
theorem shiftWord_toNat {n : Nat} (k : ShiftKind) (c : Bool) (a : Word) (h : n < 16) :
    (shiftWord k c a n).toNat = shiftedValue k c a n := by
  cases k with
  | shl => rw [shiftWord, shiftLeft, BitVec.toNat_shiftLeft, Nat.shiftLeft_eq, shiftedValue]
  | shr => rw [shiftWord, shiftRight, BitVec.toNat_ushiftRight, Nat.shiftRight_eq_div_pow, shiftedValue]
  | sar => exact shiftArith_toNat a n
  | rol => exact rotateLeft_toNat a h
  | rcl => exact shiftWord_rcl_toNat c a (by omega)

theorem shiftCarryOut_eq {n : Nat} (k : ShiftKind) (c : Bool) (a : Word) (draw : Nat) (h : n < 16) :
    shiftCarryOut k c a n draw = shiftedCarry k c a n draw := by
  cases k with
  | shl | shr | sar | rol => rfl
  | rcl => exact shiftCarryOut_rcl c a draw (by omega)

/-- A count below 16 leaves what the rule says. -/
theorem afterShift_of_lt {m : Nat} (s : State) (k : ShiftKind) (rD : Reg) (next : Word) (h : m < 16) :
    afterShift s k rD m next =
      shifted s k rD (shiftedValue k s.flags.c (s.reg rD) m) (shiftedCarry k s.flags.c (s.reg rD) m s.draws) next := by
  rw [afterShift, shiftWord_toNat k _ _ h, shiftCarryOut_eq k _ _ _ h]

/-- Settles O24: the count is taken as it is, and the word and carry of each instruction are those of its rule. -/
theorem shiftsFollowTheirFormulas : Obligations.ShiftsFollowTheirFormulas := by
  intro s i k rD n next hshift hn
  rw [exec_of_shifts_of_some hshift (shiftCount_of_lt hn), afterShift_of_lt s k rD next hn]

/-- Settles O26: bit by bit on the rotation itself, without its formula. -/
theorem rolMovesEachBit : Obligations.RolMovesEachBit := by
  intro s t i rD n next j hshift hn hj hexec
  cases (exec_of_shifts_of_some hshift (shiftCount_of_lt hn)).symm.trans hexec
  refine ⟨?_, rfl⟩
  rw [afterShift_reg_same]
  exact rotate16_getLsbD (s.reg rD) hj hn

/-! ## Counts from 16 on -/

/-- Under SAR every bit of the result is bit 15 once the count reaches 16 (46_shift_rotate.md R206). -/
theorem shiftArith_toNat_of_ge {n : Nat} (a : Word) (h : 16 ≤ n) :
    (shiftArith a n).toNat = if a.toNat < 32768 then 0 else 65535 := by
  have hout : ∀ x < 65536, x >>> n = 0 := fun x hx =>
    Nat.shiftRight_eq_zero x n (hx.trans_le (Nat.pow_le_pow_right (by decide : 0 < 2) h))
  have ha := a.isLt
  rw [shiftArith, BitVec.toNat_sshiftRight, hout _ ha, hout _ (by omega), BitVec.msb_eq_decide]
  simp only [decide_eq_true_eq]
  split <;> split <;> omega

/-- Each instruction at a count from 16 on, taken as it is: nothing of the word is left but its sign under SAR, and a
rotation sees the count modulo the length of its ring (46_shift_rotate.md R206). -/
theorem shiftWord_toNat_of_ge {n : Nat} (c : Bool) (a : Word) (h : 16 ≤ n) :
    (shiftWord .shl c a n).toNat = 0 ∧ (shiftWord .shr c a n).toNat = 0 ∧
    (shiftWord .sar c a n).toNat = (if a.toNat < 32768 then 0 else 65535) ∧
    (shiftWord .rol c a n).toNat = shiftedValue .rol c a (n % 16) := by
  refine ⟨?shl, ?shr, shiftArith_toNat_of_ge a h, ?rol⟩
  case shl => rw [shiftWord, shiftLeft, BitVec.shiftLeft_eq_zero h, BitVec.toNat_zero]
  case shr => rw [shiftWord, shiftRight, BitVec.ushiftRight_eq_zero h, BitVec.toNat_zero]
  case rol =>
    rw [← shiftWord_toNat .rol c a (Nat.mod_lt n (by decide)), shiftWord, shiftWord, rotate16, rotate16,
      BitVec.rotateLeft_mod_eq_rotateLeft]

/-- RCL sees any count modulo 17. -/
theorem rclRing_mod (c : Bool) (a : Word) (n : Nat) : rclRing c a n = rclRing c a (n % 17) :=
  BitVec.rotateLeft_mod_eq_rotateLeft.symm

/-- RCL leaves its rule's word and carry at the count modulo 17. -/
theorem afterShift_rcl (s : State) (rD : Reg) (n : Nat) (next : Word) :
    afterShift s .rcl rD n next =
      shifted s .rcl rD (shiftedValue .rcl s.flags.c (s.reg rD) (n % 17))
        (shiftedCarry .rcl s.flags.c (s.reg rD) (n % 17) s.draws) next := by
  have hn : n % 17 < 17 := Nat.mod_lt n (by decide)
  rw [← shiftWord_rcl_toNat _ _ hn, ← shiftCarryOut_rcl _ _ _ hn, afterShift, shiftWord, shiftCarryOut, rclRing_mod]
  rfl

/-- Settles O25: what SHIFT_COUNT_BIG makes of the count, and then what each instruction does at that count. -/
theorem bigShiftCounts : Obligations.BigShiftCounts := by
  intro s i k rD n next hshift hn
  obtain ⟨hfault, hmasked, hmathematical⟩ := shiftCount_of_ge (c := s.cfg) hn
  obtain ⟨hshl, hshr, hsar, hrol⟩ := shiftWord_toNat_of_ge s.flags.c (s.reg rD) hn
  refine ⟨fun hbig => exec_of_shifts_of_none hshift (hfault hbig), fun hbig => ?masked, fun hbig => ?mathematical⟩
  case masked =>
    rw [exec_of_shifts_of_some hshift (hmasked hbig), afterShift_of_lt s k rD next (Nat.mod_lt _ (by decide))]
  case mathematical =>
    rw [exec_of_shifts_of_some hshift (hmathematical hbig)]
    refine ⟨?shlOrShr, ?sar, ?rol, ?rcl⟩
    case shlOrShr =>
      rintro (rfl | rfl)
      · rw [afterShift, hshl, shiftCarryOut]
      · rw [afterShift, hshr, shiftCarryOut]
    case sar =>
      rintro rfl
      rw [afterShift, hsar, shiftCarryOut]
    case rol =>
      rintro rfl
      rw [afterShift, hrol, shiftCarryOut]
    case rcl =>
      rintro rfl
      rw [afterShift_rcl]

end Sys2Proof.Proofs
end

section
/-! Device registers. An access at a register's own address and in its own size is the read or write of that register,
so each load and store of a device is one `readPeriph` or `writePeriph` (60_exceptions.md part B). -/

namespace Sys2Proof.Proofs

open Sys2Proof.Machine Sys2Proof.Claims

section
variable {s : State} {i : Instr} {rD : Reg} {next v : Word} {f : Fault}

/-! ## The access of each register -/

theorem memRead_of_device (s : State) (p : Periph) : memRead s (periphBase p) (periphSize p) = readPeriph s p := by
  rw [memRead, locate_of_device, andThen_next]

theorem memWrite_of_device (s : State) (p : Periph) (v : Word) :
    memWrite s (periphBase p) (periphSize p) v = writePeriph s p v := by
  rw [memWrite, locate_of_device, andThen_next]

theorem exec_of_storesTo_device (p : Periph) (h : StoresTo s i (periphSize p) rD (periphBase p) next) :
    exec i s = andThen (writePeriph s p (s.reg rD)) (fun t => .next (t.setPc next)) := by
  rw [exec_of_storesTo h, memWrite_of_device]

theorem exec_of_loadsFrom_wordDevice (p : Periph) (hp : periphSize p = .word)
    (h : LoadsFrom s i .word rD (periphBase p) next) :
    exec i s = andThen (readPeriph s p) (fun vt => .next ((vt.2.setReg rD vt.1).setPc next)) := by
  rw [exec_of_loadsFrom_word h, ← hp, memRead_of_device]

theorem exec_of_loadsFrom_byteDevice (p : Periph) (hp : periphSize p = .byte)
    (h : LoadsFrom s i .byte rD (periphBase p) next) :
    exec i s = andThen (readPeriph s p) (fun vt =>
      .next ((vt.2.setReg rD (extended s.cfg.ldbExtension (vt.1.extractLsb' 0 8))).setPc next)) := by
  rw [exec_of_loadsFrom_byte h, ← hp, memRead_of_device]

/-- The low bits of a word as a number. -/
theorem extractLsb'_zero_eq_ofNat (k : Nat) (v : Word) : v.extractLsb' 0 k = BitVec.ofNat k (v.toNat % 2 ^ k) :=
  BitVec.eq_of_toNat_eq (by simp)

/-! ## Registers of the wrong direction -/

/-- The registers a load has no meaning for (60_exceptions.md R248, R254, R261 to R263). -/
def writeOnly : List Periph := [.uartBaud, .soundData, .dmaLocal, .dmaRemote, .dmaCount]

theorem exec_fault_of_load_writeOnly {p : Periph} (hp : p ∈ writeOnly)
    (h : LoadsFrom s i .word rD (periphBase p) next) :
    exec i s = .fault (.peripheralAccessType (periphBase p) .read) := by
  obtain ⟨hsize, hread⟩ : periphSize p = .word ∧
      readPeriph s p = .fault (.peripheralAccessType (periphBase p) .read) := by
    simp only [writeOnly, List.mem_cons, List.not_mem_nil, or_false] at hp
    rcases hp with rfl | rfl | rfl | rfl | rfl <;> exact ⟨rfl, rfl⟩
  rw [exec_of_loadsFrom_wordDevice p hsize h, hread, andThen_fault]

end

/-- Settles O14: the listed addresses are those of the write-only registers. -/
theorem peripheralAccessTypeIsChecked : Obligations.PeripheralAccessTypeIsChecked := by
  refine fun s => ⟨fun i rD ea next h hea => ?_, fun i rD next h => ?_⟩
  · obtain ⟨p, hp, rfl⟩ : ∃ p ∈ writeOnly, periphBase p = ea := List.mem_map.1 hea
    exact exec_fault_of_load_writeOnly hp h
  · exact exec_of_storesTo_device .uartStatus h

/-! ## The LED latch, the baud divisor, the timer and the sound divisors -/

/-- Settles O40: the low byte of the register, and the latch as the low byte of the value read. -/
theorem ledLatchHoldsWhatIsStored : Obligations.LedLatchHoldsWhatIsStored := by
  refine fun s i rD next => ⟨fun h => ?_, fun h => ?_⟩
  · rw [exec_of_storesTo_device .ledData h, writePeriph, andThen_next, extractLsb'_zero_eq_ofNat]
    rfl
  · rw [exec_of_loadsFrom_byteDevice .ledData rfl h, readPeriph, andThen_next, BitVec.extractLsb'_append_eq_right]

/-- The top two bits of a sound word name the voice, the others are its divisor (60_exceptions.md R254). -/
theorem setVoice_voices_getElem (s : State) (v : Word) (k : Fin 4) :
    (s.setVoice (v.extractLsb' 14 2) (v.extractLsb' 0 14)).voices[k] =
      if k.val = v.toNat / 16384 then BitVec.ofNat 14 (v.toNat % 16384) else s.voices[k] := by
  have hvoice : (v.extractLsb' 14 2).toNat = v.toNat / 16384 := by
    rw [BitVec.extractLsb'_toNat, Nat.shiftRight_eq_div_pow]
    exact Nat.mod_eq_of_lt (Nat.div_lt_of_lt_mul v.isLt)
  rw [State.setVoice_voices, extractLsb'_zero_eq_ofNat, Fin.getElem_fin, Vector.getElem_set]
  simp only [hvoice, eq_comm]
  rfl

/-- Settles O43: the reads and writes of the three registers. -/
theorem baudTimerAndSoundRegisters : Obligations.BaudTimerAndSoundRegisters := by
  refine fun s i rD next => ⟨exec_of_storesTo_device .uartBaud, exec_of_storesTo_device .timerData,
    exec_of_loadsFrom_wordDevice .timerData rfl,
    exec_fault_of_load_writeOnly (p := .soundData) (by decide), fun h => ?_⟩
  exact ⟨_, exec_of_storesTo_device .soundData h, rfl, setVoice_voices_getElem s (s.reg rD)⟩

/-! ## The UART -/

/-- Settles O41: the queues of `uartSend` and `uartTake`; scrambling keeps the length. -/
theorem uartDataRegisterUsesTheQueues : Obligations.UartDataRegisterUsesTheQueues := by
  refine fun s i rD next => ⟨fun h => ?store, fun h => ?load⟩
  case store =>
    have hexec := exec_of_storesTo_device .uartData h
    rw [writePeriph, andThen_next, extractLsb'_zero_eq_ofNat] at hexec
    rcases uartSend_cases s (BitVec.ofNat 8 ((s.reg rD).toNat % 2 ^ 8)) with ⟨hroom, he⟩ | ⟨hfull, he⟩ <;>
      rw [he] at hexec
    · exact ⟨fun _ => hexec, fun hfull => by omega⟩
    · exact ⟨fun hroom => by omega, fun _ => ⟨_, scramble_length _ _, hexec⟩⟩
  case load =>
    have hexec := exec_of_loadsFrom_byteDevice .uartData rfl h
    rw [readPeriph, andThen_next, BitVec.extractLsb'_append_eq_right] at hexec
    rcases uartTake_state s with ⟨b, rest, hrx, he⟩ | ⟨hrx, he⟩ <;> rw [he] at hexec
    · refine ⟨fun b' rest' hrx' => ?_, fun hempty => by simp [hempty] at hrx⟩
      obtain ⟨rfl, rfl⟩ := List.cons.inj (hrx.symm.trans hrx')
      exact hexec
    · exact ⟨fun b rest hrx' => by simp [hrx] at hrx', fun _ => hexec⟩

/-- LD.b keeps the bits of the byte. -/
theorem extended_getLsbD {k : Nat} (e : Extension) (b : Byte) (hk : k < 8) :
    (extended e b).getLsbD k = b.getLsbD k := by
  rw [← extendByte_eq_extended]
  cases e with
  | zero => simp [extendByte, show k < 16 by omega]
  | sign => rw [extendByte, BitVec.getLsbD_signExtend, if_pos hk, decide_eq_true (by omega), Bool.true_and]

theorem extended_zero_lt (b : Byte) : (extended .zero b).toNat < 256 := by
  have := b.isLt
  rw [extended, BitVec.toNat_ofNat]
  omega

/-- The four conditions by bit (60_exceptions.md R247). -/
theorem uartStatusLow_getLsbD (u : Uart) :
    (uartStatusLow u).getLsbD 0 = decide (u.tx.length < 8) ∧ (uartStatusLow u).getLsbD 1 = decide (u.tx.length = 0) ∧
    (uartStatusLow u).getLsbD 2 = decide (0 < u.rx.length) ∧ (uartStatusLow u).getLsbD 3 = u.overrun := by
  have hbits : ∀ a b c d : Bool, (bitOf a ++ bitOf b ++ bitOf c ++ bitOf d).getLsbD 0 = d ∧
      (bitOf a ++ bitOf b ++ bitOf c ++ bitOf d).getLsbD 1 = c ∧
      (bitOf a ++ bitOf b ++ bitOf c ++ bitOf d).getLsbD 2 = b ∧
      (bitOf a ++ bitOf b ++ bitOf c ++ bitOf d).getLsbD 3 = a := by decide
  exact hbits _ _ _ _

/-- Settles O42: the low four bits of the byte read are those of the four conditions. -/
theorem uartStatusShowsTheQueues : Obligations.UartStatusShowsTheQueues := by
  intro s i rD next h
  have hexec := exec_of_loadsFrom_byteDevice .uartStatus rfl h
  have hbit {k : Nat} (hk : k < 4) :
      (extended s.cfg.ldbExtension ((0#8 ++ Config.freeStatusHigh s.draws ++ uartStatusLow s.uart).extractLsb' 0 8)).getLsbD
        k = (uartStatusLow s.uart).getLsbD k := by
    rw [extended_getLsbD _ _ (by omega), BitVec.getLsbD_extractLsb', decide_eq_true (by omega), Bool.true_and,
      Nat.zero_add, BitVec.getLsbD_append, if_pos hk]
  obtain ⟨hspace, hempty, hready, hoverrun⟩ := uartStatusLow_getLsbD s.uart
  refine ⟨_, hexec, ?_, ?_, ?_, ?_, fun hzero => ?_⟩
  · rw [hbit (by decide), hspace, decide_eq_true_iff]
  · rw [hbit (by decide), hempty, decide_eq_true_iff, List.length_eq_zero_iff]
  · rw [hbit (by decide), hready, decide_eq_true_iff, List.length_pos_iff]
  · rw [hbit (by decide), hoverrun]
  · rw [hzero]
    exact extended_zero_lt _

/-! ## The DMA registers -/

section
variable {s : State} {i : Instr} {rD : Reg} {next : Word}

/-- DMA_CONTROL takes the numbers 0 and 1 only (60_exceptions.md R259). -/
theorem dmaType_reserved_iff (v : Word) :
    (v.extractLsb' 3 13 ≠ 0#13 ∨ 2 ≤ (v.extractLsb' 0 3).toNat) ↔ 2 ≤ v.toNat := by
  have hhigh : (v.extractLsb' 3 13).toNat = v.toNat / 8 := by
    rw [BitVec.extractLsb'_toNat, Nat.shiftRight_eq_div_pow]
    exact Nat.mod_eq_of_lt (Nat.div_lt_of_lt_mul v.isLt)
  have hlow : (v.extractLsb' 0 3).toNat = v.toNat % 8 := by simp
  rw [hlow, Ne, BitVec.toNat_inj.symm, hhigh, BitVec.toNat_ofNat]
  omega

/-- The conditions on a transfer, written out (60_exceptions.md R265, R268). -/
theorem dmaAcceptable_iff (s : State) :
    dmaAcceptable s = true ↔
      s.dma.count.toNat ≠ 0 ∧ s.dma.count.toNat % 2 = 0 ∧ s.dma.localAddr.toNat % 2 = 0 ∧
      s.dma.localAddr.toNat + s.dma.count.toNat ≤ s.cfg.ramLimit.toNat ∧
      s.dma.localAddr.toNat + s.dma.count.toNat ≤ 0xFF00 ∧
      s.dma.remote.toNat * 2 ^ s.cfg.dmaRemoteShift + s.dma.remoteLow + s.dma.count.toNat ≤ s.cfg.dramSize := by
  rw [← dmaExternal]
  simp only [dmaAcceptable, Bool.and_eq_true, beq_iff_eq, decide_eq_true_eq, Nat.pos_iff_ne_zero]
  tauto

theorem dmaStart_reserved {v : Word} (h : 2 ≤ v.toNat) : dmaStart s v = .fault (.reservedDmaType v) :=
  if_pos ((dmaType_reserved_iff v).2 h)

theorem dmaStart_busy {v : Word} (h : v.toNat < 2) (hbusy : s.dma.busy = true) :
    dmaStart s v = .refused (.dmaRegisterWhileBusy 0xFF0A#16) := by
  rw [dmaStart, if_neg (by rw [dmaType_reserved_iff]; omega), if_pos hbusy]

theorem dmaStart_idle {v : Word} (h : v.toNat < 2) (hidle : s.dma.busy = false) :
    dmaStart s v =
      if dmaAcceptable s = true then
        .next (s.setDma { s.dma with kind := BitVec.ofNat 3 v.toNat, busy := true, moved := [] })
      else .refused (.dmaUnsupportedTransfer s.dma.localAddr s.dma.count) := by
  rw [dmaStart, if_neg (by rw [dmaType_reserved_iff]; omega), if_neg (by simp [hidle]), extractLsb'_zero_eq_ofNat,
    Nat.mod_eq_of_lt (by omega)]

theorem dmaParameter_busy {addr : Word} {d : Dma} (hbusy : s.dma.busy = true) :
    dmaParameter s addr d = .refused (.dmaRegisterWhileBusy addr) :=
  if_pos hbusy

theorem dmaParameter_idle {addr : Word} {d : Dma} (hidle : s.dma.busy = false) :
    dmaParameter s addr d = .next (s.setDma d) :=
  if_neg (by simp [hidle])

end

/-- Settles O45: `dmaStart` and `dmaParameter` of a reserved number, of a busy and of an idle engine. -/
theorem dmaRegistersStartATransfer : Obligations.DmaRegistersStartATransfer := by
  intro s i rD ea next h
  refine ⟨?reserved, ?start, ?startBusy, ?parameterBusy, ?localAddr, ?remote, ?count⟩
  case reserved =>
    rintro rfl hreserved
    rw [exec_of_storesTo_device .dmaControl h, writePeriph, dmaStart_reserved hreserved, andThen_fault]
  case start =>
    rintro rfl htype hidle
    rw [exec_of_storesTo_device .dmaControl h, writePeriph, dmaStart_idle htype hidle]
    simp only [← dmaAcceptable_iff]
    split <;> rfl
  case startBusy =>
    rintro rfl htype hbusy
    rw [exec_of_storesTo_device .dmaControl h, writePeriph, dmaStart_busy htype hbusy, andThen_refused]
  case parameterBusy =>
    intro hea hbusy
    simp only [List.mem_cons, List.not_mem_nil, or_false] at hea
    rcases hea with rfl | rfl | rfl
    · rw [exec_of_storesTo_device .dmaLocal h, writePeriph, dmaParameter_busy hbusy, andThen_refused]
    · rw [exec_of_storesTo_device .dmaRemote h, writePeriph, dmaParameter_busy hbusy, andThen_refused]
    · rw [exec_of_storesTo_device .dmaCount h, writePeriph, dmaParameter_busy hbusy, andThen_refused]
  case localAddr =>
    rintro rfl hidle
    rw [exec_of_storesTo_device .dmaLocal h, writePeriph, dmaParameter_idle hidle, andThen_next]
  case remote =>
    rintro rfl hidle
    rw [exec_of_storesTo_device .dmaRemote h, writePeriph, dmaParameter_idle hidle, andThen_next]
  case count =>
    rintro rfl hidle
    rw [exec_of_storesTo_device .dmaCount h, writePeriph, dmaParameter_idle hidle, andThen_next]

/-- No idle status is a busy one (60_exceptions.md R260). -/
theorem idle_ne_busy_of_config_wf {c : Config} (h : c.wf = true) {j k : Nat} (hj : j < 8) (hk : k < 8) :
    c.dmaIdleStatus[j] ≠ c.dmaBusyStatus[k] := by
  simp only [Config.wf, Bool.and_eq_true] at h
  obtain ⟨⟨-, hstatus⟩, -⟩ := h
  simp only [List.all_eq_true, bne_iff_ne, Vector.mem_toList_iff] at hstatus
  exact hstatus _ (Vector.getElem_mem hj) _ (Vector.getElem_mem hk)

/-- Bits 2:0 of a read of DMA_CONTROL are the status. -/
theorem controlWord_mod (high : BitVec 13) (status : BitVec 3) : (high ++ status).toNat % 8 = status.toNat := by
  have hlow : (high ++ status).extractLsb' 0 3 = status := BitVec.extractLsb'_append_eq_right
  rw [← congrArg BitVec.toNat hlow, BitVec.extractLsb'_toNat]
  rfl

/-- Settles O46: the low three bits of the two values read are an idle and a busy status of the same parameters. -/
theorem dmaStatusTellsIdleFromBusy : Obligations.DmaStatusTellsIdleFromBusy := by
  intro s t i j rD rE next next' hwf hcfg hload hload' hidle hbusy
  have hne : dmaStatus s ≠ dmaStatus t := by
    rw [dmaStatus, dmaStatus, if_neg (by simp [hidle]), if_pos hbusy]
    simp only [hcfg]
    exact idle_ne_busy_of_config_wf hwf s.dma.kind.isLt t.dma.kind.isLt
  refine ⟨_, _, exec_of_loadsFrom_wordDevice .dmaControl rfl hload,
    exec_of_loadsFrom_wordDevice .dmaControl rfl hload', ?_⟩
  rw [controlWord_mod, controlWord_mod]
  exact fun he => hne (BitVec.eq_of_toNat_eq he)

end Sys2Proof.Proofs
end

section
/-! LDCP and reset. The word of the flags is the number of their bits (10_state.md R25). -/

namespace Sys2Proof.Proofs

open Sys2Proof.Machine Sys2Proof.Claims

theorem flags_toWord_eq_ofNat (f : Flags) :
    f.toWord = BitVec.ofNat 16 (8 * f.v.toNat + 4 * f.s.toNat + 2 * f.c.toNat + f.z.toNat) := by
  obtain ⟨z, c, s, v⟩ := f
  revert z c s v
  decide

theorem exec_ldcp (s : State) (rD : Reg) (cr : CrNum) :
    exec (.ldcp rD cr) s = .next (((readCr s cr).2.setReg rD (readCr s cr).1).setPc (s.pc + 2#16)) := rfl

/-- Settles O39: the read of cr0 is the word of the flags, that of another register one draw. -/
theorem ldcpReadsTheFlags : Obligations.LdcpReadsTheFlags := by
  intro s rD cr
  rw [exec_ldcp]
  rcases readCr_cases (s := s) cr with ⟨hzero, he⟩ | ⟨hother, he⟩ <;> rw [he]
  · refine ⟨fun _ => ?_, fun hne => absurd hzero hne⟩
    rw [flags_toWord_eq_ofNat]
  · exact ⟨fun hzero => absurd hzero hother, fun _ => rfl⟩

theorem flags_toWord_lt (f : Flags) : f.toWord.toNat < 16 := by
  have hbit : ∀ b : Bool, b.toNat < 2 := Bool.toNat_lt
  have hz := hbit f.z
  have hc := hbit f.c
  have hs := hbit f.s
  have hv := hbit f.v
  rw [flags_toWord_eq_ofNat, BitVec.toNat_ofNat]
  omega

/-- The divisor at reset is one of the two (10_state.md R37). -/
theorem baudReset_of_config_wf {c : Config} (h : c.wf = true) : c.baudReset = 108#16 ∨ c.baudReset = 109#16 := by
  simp only [Config.wf, Bool.and_eq_true, Bool.or_eq_true, beq_iff_eq] at h
  obtain ⟨-, hbaud⟩ := h
  exact hbaud

/-- Settles O58: cr0 is below 16 whatever the flags are, and the divisor is the parameter. -/
theorem resetSetsPcAndBaudDivisor : Obligations.ResetSetsPcAndBaudDivisor := by
  refine fun c => ⟨rfl, flags_toWord_lt _, fun hwf => ?_⟩
  rcases baudReset_of_config_wf hwf with h | h
  · exact .inl (congrArg BitVec.toNat h)
  · exact .inr (congrArg BitVec.toNat h)

end Sys2Proof.Proofs
end

section
/-! Turns of the other agents. Each moves its own device and leaves the core; a DMA turn copies one byte and records
it, or ends the transfer (60_exceptions.md R249, R250, R252, R264 to R266). -/

namespace Sys2Proof.Proofs

open Sys2Proof.Machine Sys2Proof.Claims

section
variable {s t u : State} {i : Nat} {turn : Turn} {rest : List Turn}

theorem step_of_turn (h : s.sched = turn :: rest) (hturn : turn ≠ .core) :
    step s = .next (agentStep turn (s.setSched rest)) := by
  rw [step, h]
  cases turn with
  | core => exact absurd rfl hturn
  | timerTick | uartTransmit | uartReceive | dmaMove | dmaAny => rfl

/-! ## What a turn leaves -/

/-- A DMA move leaves all but the memories, the engine and the draws. -/
theorem dmaStep_frame (i : Nat) (s : State) :
    dmaStep i s = { s with
      mem := (dmaStep i s).mem, dram := (dmaStep i s).dram, dma := (dmaStep i s).dma, draws := (dmaStep i s).draws } := by
  rcases dmaStep_cases i s with h | ⟨-, -, -, ⟨-, h⟩ | ⟨-, h⟩⟩ <;>
    rcases dmaCopy_cases s i with ⟨-, hc⟩ | ⟨-, hc⟩ <;> rw [h] <;> rw [hc] <;> rfl

/-- A turn of another agent leaves the core, the LED latch, the sound divisors, the parameters and the turns to come. -/
theorem agentStep_frame (turn : Turn) (s : State) :
    agentStep turn s = { s with
      mem := (agentStep turn s).mem, uart := (agentStep turn s).uart, timer := (agentStep turn s).timer,
      dma := (agentStep turn s).dma, dram := (agentStep turn s).dram, draws := (agentStep turn s).draws } := by
  cases turn with
  | core => rfl
  | timerTick =>
    rcases timerStep_cases s with ⟨-, h⟩ | ⟨-, h⟩ <;> rw [agentStep, h]
    rfl
  | uartTransmit =>
    rcases transmitStep_cases s with ⟨-, h⟩ | ⟨b, q, -, h⟩ <;> rw [agentStep, h]
    rfl
  | uartReceive b =>
    rcases receiveStep_cases b s with ⟨-, h⟩ | ⟨-, h⟩ <;> rw [agentStep, h]
    · rfl
    · rfl
  | dmaMove i => rw [agentStep, dmaStep_frame]
  | dmaAny =>
    rcases dmaAnyStep_cases s with ⟨-, h⟩ | ⟨-, h⟩ <;> rw [agentStep, h]
    rw [dmaStep_frame]
    rfl

/-- The timer counts down by 1, and 0 less 1 is 0 (60_exceptions.md R252). -/
theorem timerStep_eq (s : State) : timerStep s = s.setTimer (BitVec.ofNat 16 (s.timer.toNat - 1)) := by
  rcases timerStep_cases s with ⟨hzero, he⟩ | ⟨hne, he⟩ <;> rw [he]
  · have hsame : BitVec.ofNat 16 (s.timer.toNat - 1) = s.timer := by rw [hzero]; rfl
    rw [hsame]
    rfl
  · have hpred : BitVec.ofNat 16 (s.timer.toNat - 1) = s.timer - 1#16 := by bv_omega
    rw [hpred]

/-! ## A turn of the DMA engine -/

theorem dmaStep_of_not_stillToMove (h : ¬ StillToMove s.dma i) : dmaStep i s = s := by
  rcases dmaStep_cases i s with he | ⟨hbusy, hi, hnew, -⟩
  · exact he
  · exact absurd ⟨hbusy, hi, hnew⟩ h

/-- A byte still to move is copied, and recorded or the last one. -/
theorem dmaStep_of_stillToMove (h : StillToMove s.dma i) :
    (s.dma.moved.length + 1 = s.dma.count.toNat ∧ dmaStep i s = dmaFinish (dmaCopy s i)) ∨
    (s.dma.moved.length + 1 ≠ s.dma.count.toNat ∧
      dmaStep i s = (dmaCopy s i).setDma { s.dma with moved := i :: s.dma.moved }) := by
  obtain ⟨hbusy, hi, hnew⟩ := h
  have hcond : s.dma.busy = true ∧ i < s.dma.count.toNat ∧ s.dma.moved.contains i = false :=
    ⟨hbusy, hi, by simpa using hnew⟩
  rw [dmaStep, if_pos hcond]
  split
  · exact .inl ⟨‹_›, rfl⟩
  · exact .inr ⟨‹_›, rfl⟩

theorem dmaStep_dma_recorded (h : StillToMove s.dma i) (hlast : s.dma.moved.length + 1 ≠ s.dma.count.toNat) :
    (dmaStep i s).dma = { s.dma with moved := i :: s.dma.moved } ∧ (dmaStep i s).draws = s.draws := by
  rcases dmaStep_of_stillToMove h with ⟨he, -⟩ | ⟨-, hstep⟩
  · exact absurd he hlast
  · rw [hstep]
    rcases dmaCopy_cases s i with ⟨-, hc⟩ | ⟨-, hc⟩ <;> rw [hc] <;> exact ⟨rfl, rfl⟩

/-- The last byte moved leaves the engine as one that finishes with the same registers. -/
theorem dmaStep_dma_finished (h : StillToMove s.dma i) (hlast : s.dma.moved.length + 1 = s.dma.count.toNat) :
    (dmaStep i s).dma = (dmaFinish s).dma ∧ (dmaStep i s).draws = s.draws + 1 := by
  rcases dmaStep_of_stillToMove h with ⟨-, hstep⟩ | ⟨hne, -⟩
  · rw [hstep]
    rcases dmaCopy_cases s i with ⟨-, hc⟩ | ⟨-, hc⟩ <;> rw [hc] <;> exact ⟨rfl, rfl⟩
  · exact absurd hlast hne

theorem dmaStep_memories (h : StillToMove s.dma i) :
    (dmaStep i s).mem = (dmaCopy s i).mem ∧ (dmaStep i s).dram = (dmaCopy s i).dram := by
  rcases dmaStep_of_stillToMove h with ⟨-, hstep⟩ | ⟨-, hstep⟩ <;> rw [hstep] <;> exact ⟨rfl, rfl⟩

theorem dramByte_of_dram (h : t.dram = s.dram) (a : Nat) : t.dramByte a = s.dramByte a := by
  rw [State.dramByte, State.dramByte, h]

/-- DMA_WRITE copies a byte of RAM to the DRAM (60_exceptions.md R264). -/
theorem dmaStep_write (h : StillToMove s.dma i) (hkind : s.dma.kind = 0#3) :
    (dmaStep i s).mem = s.mem ∧ ∀ a, (dmaStep i s).dramByte a =
      if a = dmaExternal s + i then s.ramByte (dmaLocalByte s i) else s.dramByte a := by
  obtain ⟨hmem, hdram⟩ := dmaStep_memories h
  rw [hmem]
  simp only [dramByte_of_dram hdram, dmaCopy, if_pos hkind]
  exact ⟨rfl, fun a => State.setDram_dramByte s _ a _⟩

/-- DMA_READ copies a byte of the DRAM to RAM (60_exceptions.md R264). -/
theorem dmaStep_read (h : StillToMove s.dma i) (hkind : s.dma.kind = 1#3) :
    (dmaStep i s).dram = s.dram ∧ ∀ a, (dmaStep i s).ramByte a =
      if a = dmaLocalByte s i then s.dramByte (dmaExternal s + i) else s.ramByte a := by
  obtain ⟨hmem, hdram⟩ := dmaStep_memories h
  rw [hdram]
  simp only [ramByte_of_mem hmem, dmaCopy, if_neg (show s.dma.kind ≠ 0#3 by simp [hkind])]
  exact ⟨rfl, fun a => State.storeByte_ramByte s _ a _⟩

/-- The byte the engine takes for itself is one still to move, if there is one. -/
theorem dmaPick_stillToMove (h : StillToMove s.dma i) : StillToMove s.dma (dmaPick s) := by
  obtain ⟨hbusy, hi, hnew⟩ := h
  have hpick := dmaPick_mem (List.ne_nil_of_mem (mem_dmaRemaining.2 ⟨hi, hnew⟩))
  exact ⟨hbusy, mem_dmaRemaining.1 hpick⟩

end

/-- Settles O9: no turn but the core's changes the core. -/
theorem agentTurnsLeaveTheCoreAlone : Obligations.AgentTurnsLeaveTheCoreAlone := by
  intro s turn rest hturn hsched
  refine ⟨_, step_of_turn hsched hturn, ?_⟩
  rw [agentStep_frame]
  exact ⟨rfl, rfl, rfl, rfl, rfl, rfl, rfl, rfl⟩

/-- Settles O44: the cases of each agent's move. -/
theorem uartAndTimerAgentsMove : Obligations.UartAndTimerAgentsMove := by
  refine fun s rest => ⟨fun hsched => ?transmit, fun b hsched => ?receive, fun hsched => ?tick⟩
  all_goals rw [step_of_turn hsched nofun, agentStep]
  case transmit =>
    rcases transmitStep_cases (s.setSched rest) with ⟨hempty, he⟩ | ⟨b, q, htx, he⟩ <;> rw [he]
    · exact ⟨fun _ => rfl, fun b q htx => absurd (hempty.symm.trans htx) nofun⟩
    · refine ⟨fun hempty => absurd (htx.symm.trans hempty) nofun, fun b' q' htx' => ?_⟩
      obtain ⟨rfl, rfl⟩ := List.cons.inj (htx.symm.trans htx')
      rfl
  case receive =>
    rcases receiveStep_cases b (s.setSched rest) with ⟨hroom, he⟩ | ⟨hfull, he⟩ <;> rw [he]
    · exact ⟨fun _ => rfl, fun hfull => absurd hroom (Nat.not_lt.2 hfull)⟩
    · exact ⟨fun hroom => absurd hroom (Nat.not_lt.2 hfull), fun _ => ⟨_, scramble_length _ _, rfl⟩⟩
  case tick =>
    rw [timerStep_eq]
    rfl

/-- Settles O47: the two memories, the engine and the draws of `dmaStep`; the engine's own turn is the one for the
byte it takes. -/
theorem dmaTurnMovesOneByte : Obligations.DmaTurnMovesOneByte := by
  refine fun s rest => ⟨fun i hsched => ⟨fun hnot => ?other, fun hmove => ?move⟩,
    fun hsched => ⟨fun hidle => ?idle, ?own⟩⟩
  case other => rw [step_of_turn hsched nofun, agentStep, dmaStep_of_not_stillToMove (s := s.setSched rest) hnot]
  case move =>
    refine ⟨_, step_of_turn hsched nofun, dmaStep_frame i _, dmaStep_write (s := s.setSched rest) hmove,
      dmaStep_read (s := s.setSched rest) hmove, dmaStep_dma_recorded (s := s.setSched rest) hmove, fun hlast => ?_⟩
    obtain ⟨hdma, hdraws⟩ := dmaStep_dma_finished (s := s.setSched rest) hmove hlast
    exact ⟨hdraws, hdma⟩
  case idle =>
    rw [step_of_turn hsched nofun, agentStep, dmaAnyStep, if_neg (by simp [hidle])]
  case own =>
    rintro ⟨j, hbusy, hj⟩
    refine ⟨dmaPick (s.setSched rest), dmaPick_stillToMove (s := s.setSched rest) ⟨hbusy, hj⟩, ?_⟩
    rw [step_of_turn hsched nofun, agentStep, dmaAnyStep, if_pos (show (s.setSched rest).dma.busy = true from hbusy)]
    rfl

end Sys2Proof.Proofs
end

section
/-! A DMA transfer. Byte moves to places that differ do not disturb each other, so moves in any order copy every byte,
and the last of them ends the transfer (60_exceptions.md R264 to R266). -/

namespace Sys2Proof.Proofs

open Sys2Proof.Machine Sys2Proof.Claims

/-! ## Bytes written one after another -/

/-- The memory read by `g` is the one read by `f` after the byte `val k` was written at `dst k`, for each `k` listed. -/
def Overwritten {α : Type} (f g : α → Byte) (dst : Nat → α) (val : Nat → Byte) (l : List Nat) : Prop :=
  (∀ k ∈ l, g (dst k) = val k) ∧ ∀ a, (∀ k ∈ l, a ≠ dst k) → g a = f a

section
variable {α : Type} [DecidableEq α] {f g h : α → Byte} {dst : Nat → α} {val : Nat → Byte} {i : Nat} {l : List Nat}

theorem overwritten_singleton (hg : ∀ a, g a = if a = dst i then val i else f a) : Overwritten f g dst val [i] := by
  simp only [Overwritten, List.mem_singleton, forall_eq]
  exact ⟨by rw [hg, if_pos rfl], fun a ha => by rw [hg, if_neg ha]⟩

/-- A later byte at another place leaves the first one. -/
theorem Overwritten.cons (hi : ∀ a, g a = if a = dst i then val i else f a) (hl : Overwritten g h dst val l)
    (hne : ∀ k ∈ l, dst i ≠ dst k) : Overwritten f h dst val (i :: l) := by
  obtain ⟨hwritten, hother⟩ := hl
  simp only [Overwritten, List.forall_mem_cons]
  refine ⟨⟨?_, hwritten⟩, fun a ⟨hai, hal⟩ => ?_⟩
  · rw [hother _ hne, hi, if_pos rfl]
  · rw [hother a hal, hi, if_neg hai]

end

section
variable {s t u : State} {i : Nat} {order : List Nat}

/-- What the transfer described by the registers of `s` has done in `t` to the memories with the bytes listed. -/
structure Copied (s : State) (l : List Nat) (t : State) : Prop where
  write : s.dma.kind = 0#3 → t.mem = s.mem ∧
    Overwritten s.dramByte t.dramByte (dmaExternal s + ·) (fun k => s.ramByte (dmaLocalByte s k)) l
  read : s.dma.kind = 1#3 → t.dram = s.dram ∧
    Overwritten s.ramByte t.ramByte (dmaLocalByte s) (fun k => s.dramByte (dmaExternal s + k)) l

theorem dmaStep_copied (h : StillToMove s.dma i) : Copied s [i] (dmaStep i s) where
  write hkind :=
    have ⟨hmem, hdram⟩ := dmaStep_write h hkind
    ⟨hmem, overwritten_singleton hdram⟩
  read hkind :=
    have ⟨hdram, hram⟩ := dmaStep_read h hkind
    ⟨hdram, overwritten_singleton hram⟩

theorem dmaLocalByte_injective {j : Nat} (hi : i < s.dma.count.toNat) (hj : j < s.dma.count.toNat)
    (h : dmaLocalByte s i = dmaLocalByte s j) : i = j := by
  have hcount := s.dma.count.isLt
  unfold dmaLocalByte at h
  bv_omega

/-- The registers that say what a transfer copies, and where, are the same. -/
structure SameTransfer (s t : State) : Prop where
  kind : t.dma.kind = s.dma.kind
  external : dmaExternal t = dmaExternal s
  localByte : dmaLocalByte t = dmaLocalByte s

/-- The first byte, and then the others from the state it leaves. -/
theorem Copied.cons {l : List Nat} (hi : StillToMove s.dma i) (hsame : SameTransfer s (dmaStep i s)) (hnew : i ∉ l)
    (hl : ∀ k ∈ l, k < s.dma.count.toNat) (h : Copied (dmaStep i s) l t) : Copied s (i :: l) t := by
  obtain ⟨hwrite, hread⟩ := h
  rw [hsame.kind, hsame.external, hsame.localByte] at hwrite hread
  refine ⟨fun hkind => ?_, fun hkind => ?_⟩
  · obtain ⟨hmem, hdram⟩ := dmaStep_write hi hkind
    obtain ⟨hmem', hdram'⟩ := hwrite hkind
    simp only [ramByte_of_mem hmem] at hdram'
    exact ⟨hmem'.trans hmem, .cons hdram hdram' fun k hk he => hnew (Nat.add_left_cancel he ▸ hk)⟩
  · obtain ⟨hdram, hram⟩ := dmaStep_read hi hkind
    obtain ⟨hdram', hram'⟩ := hread hkind
    simp only [dramByte_of_dram hdram] at hram'
    obtain ⟨-, hlt, -⟩ := hi
    exact ⟨hdram'.trans hdram, .cons hram hram' fun k hk he => hnew (dmaLocalByte_injective hlt (hl k hk) he ▸ hk)⟩

/-! ## The run of a transfer -/

/-- `t` is `s` after the turns for the bytes of `order`, which were the bytes still to move: they are copied, the
engine is idle with the addresses after the final ones, and only the memories, the engine, the draws and the turns
changed. -/
structure Transferred (s : State) (order : List Nat) (t : State) : Prop where
  copied : Copied s order t
  frame : t = { s with mem := t.mem, dram := t.dram, dma := t.dma, draws := t.draws, sched := [] }
  idle : t.dma.busy = false
  localAddr : t.dma.localAddr = s.dma.localAddr + s.dma.count
  remote : t.dma.remote = BitVec.ofNat 16 ((dmaExternal s + s.dma.count.toNat) / 2 ^ s.cfg.dmaRemoteShift)

/-- The turns to come are byte moves of the running transfer, and with the bytes moved they are all of its bytes. -/
structure MovesLeft (s : State) (order : List Nat) : Prop where
  busy : s.dma.busy = true
  bytes : (order ++ s.dma.moved).Perm (List.range s.dma.count.toNat)
  turns : s.sched = order.map .dmaMove

theorem MovesLeft.stillToMove {rest : List Nat} (h : MovesLeft s (i :: rest)) : StillToMove s.dma i ∧ i ∉ rest := by
  have hmem : i < s.dma.count.toNat := List.mem_range.1 (h.bytes.subset (by simp))
  have hnodup : (i :: (rest ++ s.dma.moved)).Nodup := h.bytes.nodup_iff.2 List.nodup_range
  obtain ⟨hnew, -⟩ := List.nodup_cons.1 hnodup
  rw [List.mem_append, not_or] at hnew
  exact ⟨⟨h.busy, hmem, hnew.2⟩, hnew.1⟩

theorem MovesLeft.lt (h : MovesLeft s order) {k : Nat} (hk : k ∈ order) : k < s.dma.count.toNat :=
  List.mem_range.1 (h.bytes.subset (List.mem_append_left _ hk))

theorem MovesLeft.length (h : MovesLeft s order) : order.length + s.dma.moved.length = s.dma.count.toNat := by
  rw [← List.length_append, h.bytes.length_eq, List.length_range]

theorem MovesLeft.step {rest : List Nat} (h : MovesLeft s (i :: rest)) :
    step s = .next (dmaStep i (s.setSched (rest.map .dmaMove))) :=
  step_of_turn h.turns nofun

theorem Copied.of_setSched {l : List Nat} {turns : List Turn} (h : Copied (s.setSched turns) l t) : Copied s l t :=
  ⟨h.write, h.read⟩

/-- The move of the last byte ends the transfer. -/
theorem transferred_last (h : MovesLeft s [i]) : Transferred s [i] (dmaStep i (s.setSched [])) := by
  obtain ⟨hmove, -⟩ := h.stillToMove
  have hlast : s.dma.moved.length + 1 = s.dma.count.toNat := by rw [← h.length, List.length_singleton, Nat.add_comm]
  obtain ⟨hdma, -⟩ := dmaStep_dma_finished (s := s.setSched []) hmove hlast
  refine ⟨(dmaStep_copied (s := s.setSched []) hmove).of_setSched, dmaStep_frame i _, ?_, ?_, ?_⟩ <;> rw [hdma] <;> rfl

/-- The move of a byte that is not the last one leaves the others to move, by the same registers. -/
theorem MovesLeft.next {rest : List Nat} (h : MovesLeft s (i :: rest)) (hrest : rest ≠ []) :
    MovesLeft (dmaStep i (s.setSched (rest.map .dmaMove))) rest ∧
    (dmaStep i (s.setSched (rest.map .dmaMove))).dma = { s.dma with moved := i :: s.dma.moved } := by
  obtain ⟨hmove, -⟩ := h.stillToMove
  have hlast : s.dma.moved.length + 1 ≠ s.dma.count.toNat := by
    have hlength := h.length
    have hpos := List.length_pos_iff.2 hrest
    rw [List.length_cons] at hlength
    omega
  obtain ⟨hdma, -⟩ := dmaStep_dma_recorded (s := s.setSched (rest.map .dmaMove)) hmove hlast
  refine ⟨⟨?_, ?_, dmaStep_sched i _⟩, hdma⟩ <;> rw [hdma]
  · exact h.busy
  · exact List.perm_middle.trans h.bytes

/-- What the first move and then the others do is what they do together. -/
theorem Transferred.cons {rest : List Nat} (h : MovesLeft s (i :: rest)) (hrest : rest ≠ [])
    (ht : Transferred (dmaStep i (s.setSched (rest.map .dmaMove))) rest t) : Transferred s (i :: rest) t := by
  obtain ⟨hmove, hnew⟩ := h.stillToMove
  obtain ⟨hleft, hdma⟩ := h.next hrest
  obtain ⟨hcopied, hframe, hidle, hlocal, hremote⟩ := ht
  have hcfg : (dmaStep i (s.setSched (rest.map .dmaMove))).cfg = s.cfg := by rw [dmaStep_frame]; rfl
  have hexternal : dmaExternal (dmaStep i (s.setSched (rest.map .dmaMove))) = dmaExternal s := by
    rw [dmaExternal, hdma, hcfg, dmaExternal]
  have hsame : SameTransfer (s.setSched (rest.map .dmaMove)) (dmaStep i (s.setSched (rest.map .dmaMove))) := by
    refine ⟨by rw [hdma]; rfl, hexternal, ?_⟩
    funext k
    rw [dmaLocalByte, hdma]
    rfl
  have hlt : ∀ k ∈ rest, k < s.dma.count.toNat := fun k hk => h.lt (List.mem_cons_of_mem i hk)
  refine ⟨(Copied.cons (s := s.setSched (rest.map .dmaMove)) hmove hsame hnew hlt hcopied).of_setSched, ?_, hidle, ?_, ?_⟩
  · refine hframe.trans ?_
    rw [dmaStep_frame]
    rfl
  · rw [hlocal, hdma]
  · rw [hremote, hexternal, hdma, hcfg]

/-- The byte moves left, in the order of their turns, end the transfer. -/
theorem run_movesLeft (h : MovesLeft s order) (hne : order ≠ []) :
    ∃ t, core.run order.length s = .next t ∧ Transferred s order t := by
  induction order generalizing s with
  | nil => exact absurd rfl hne
  | cons i rest ih =>
    rcases eq_or_ne rest [] with rfl | hrest
    · exact ⟨_, run_succ_eq_next.2 ⟨_, h.step, rfl⟩, transferred_last h⟩
    · obtain ⟨hleft, -⟩ := h.next hrest
      obtain ⟨t, hrun, ht⟩ := ih hleft hrest
      exact ⟨t, run_succ_eq_next.2 ⟨_, h.step, hrun⟩, ht.cons h hrest⟩

end

/-- Settles O48: the byte moves are those of the transfer; where a byte goes in RAM does not wrap. -/
theorem dmaTransferCopiesInAnyOrder : Obligations.DmaTransferCopiesInAnyOrder := by
  intro s order hbusy hmoved hacc _ hperm hsched
  obtain ⟨hpos, -⟩ := dmaAcceptable_ranges hacc
  have hleft : MovesLeft s order := ⟨hbusy, by rwa [hmoved, List.append_nil], hsched⟩
  have hlength : order.length = s.dma.count.toNat := by rw [hperm.length_eq, List.length_range]
  have hmem : ∀ {k}, k < s.dma.count.toNat → k ∈ order := fun hk => hperm.mem_iff.2 (List.mem_range.2 hk)
  obtain ⟨t, hrun, ⟨hwrite, hread⟩, hframe, hidle, hlocal, hremote⟩ :=
    run_movesLeft hleft (List.length_pos_iff.1 (hlength ▸ hpos))
  rw [hlength] at hrun
  have hrest : t.regs = s.regs ∧ t.pc = s.pc ∧ t.lr = s.lr ∧ t.flags = s.flags ∧ t.uart = s.uart ∧ t.timer = s.timer ∧
      t.led = s.led ∧ t.voices = s.voices ∧ t.cfg = s.cfg := by
    rw [hframe]
    exact ⟨rfl, rfl, rfl, rfl, rfl, rfl, rfl, rfl, rfl⟩
  refine ⟨t, hrun, hidle, by rw [hframe], hlocal, by rw [hremote, BitVec.toNat_ofNat],
    fun k hk => ⟨fun hkind => ?_, fun hkind => ?_⟩, fun hkind => ?_, fun hkind => ?_, hrest⟩
  · obtain ⟨-, hcopied, -⟩ := hwrite hkind
    exact hcopied k (hmem hk)
  · obtain ⟨-, hcopied, -⟩ := hread hkind
    exact hcopied k (hmem hk)
  · obtain ⟨hsame, -, hother⟩ := hwrite hkind
    refine ⟨hsame, fun a ha => hother a fun k hk (he : a = dmaExternal s + k) => ?_⟩
    have := hleft.lt hk
    omega
  · obtain ⟨hsame, -, hother⟩ := hread hkind
    refine ⟨hsame, fun a ha => hother a fun k hk he => ?_⟩
    have hlt := hleft.lt hk
    rw [he, dmaLocalByte_toNat hacc hlt] at ha
    omega

end Sys2Proof.Proofs
end

section
/-! The work of the devices. Each agent's turn takes something off what its device has left to do, no other agent's
turn adds to it, and by fairness the turn comes again (60_exceptions.md R249, R253, R265). -/

namespace Sys2Proof.Proofs

open Sys2Proof.Machine Sys2Proof.Claims

section
variable {s t u : State} {m n i : Nat} {turn : Turn} {rest : List Turn}

/-! ## Runs and their last step -/

theorem run_succ_last_eq_next :
    core.run (n + 1) s = .next t ↔ ∃ u, core.run n s = .next u ∧ step u = .next t := by
  have hone : ∀ v : State, core.run 1 v = .next t ↔ step v = .next t := fun v =>
    run_succ_eq_next.trans ⟨fun ⟨w, hw, he⟩ => by cases he; exact hw, fun h => ⟨t, h, rfl⟩⟩
  exact run_add_eq_next.trans (exists_congr fun v => and_congr_right fun _ => hone v)

theorem run_preserves {P : State → Prop} (hstep : ∀ u v, P u → step u = .next v → P v) (hs : P s)
    (h : core.run n s = .next t) : P t := by
  induction n generalizing t with
  | zero => cases h; exact hs
  | succ n ih =>
    obtain ⟨u, hu, hlast⟩ := run_succ_last_eq_next.1 h
    exact hstep u t (ih hu) hlast

/-! ## Each turn moves its own device -/

/-- What the turn `turn` leaves when it leads from `s` to `t`: the timer, the Tx FIFO and the DMA engine with the RAM,
each unless the turn is its own. -/
structure MovesOwnDevice (turn : Turn) (s t : State) : Prop where
  timer : turn ≠ .timerTick → t.timer = s.timer
  txFifo : turn ≠ .uartTransmit → t.uart.tx = s.uart.tx ∧ t.uart.sent = s.uart.sent
  dma : (t.dma = s.dma ∧ t.mem = s.mem) ∨ ∃ i v, (v = s ∨ v = s.draw) ∧ t = dmaStep i v

theorem dmaStep_movesOwnDevice (i : Nat) {v : State} (hv : v = s ∨ v = s.draw) :
    MovesOwnDevice turn s (dmaStep i v) := by
  refine ⟨fun _ => ?_, fun _ => ?_, .inr ⟨i, v, hv, rfl⟩⟩ <;> rw [dmaStep_frame] <;> rcases hv with rfl | rfl
  · rfl
  · rfl
  · exact ⟨rfl, rfl⟩
  · exact ⟨rfl, rfl⟩

theorem agentStep_movesOwnDevice (turn : Turn) (s : State) : MovesOwnDevice turn s (agentStep turn s) := by
  cases turn with
  | core => exact ⟨fun _ => rfl, fun _ => ⟨rfl, rfl⟩, .inl ⟨rfl, rfl⟩⟩
  | timerTick =>
    rw [agentStep, timerStep_eq]
    exact ⟨fun h => absurd rfl h, fun _ => ⟨rfl, rfl⟩, .inl ⟨rfl, rfl⟩⟩
  | uartTransmit =>
    rcases transmitStep_cases s with ⟨-, he⟩ | ⟨b, q, -, he⟩ <;> rw [agentStep, he] <;>
      exact ⟨fun _ => rfl, fun h => absurd rfl h, .inl ⟨rfl, rfl⟩⟩
  | uartReceive b =>
    rcases receiveStep_cases b s with ⟨-, he⟩ | ⟨-, he⟩ <;> rw [agentStep, he] <;>
      exact ⟨fun _ => rfl, fun _ => ⟨rfl, rfl⟩, .inl ⟨rfl, rfl⟩⟩
  | dmaMove i => exact dmaStep_movesOwnDevice i (.inl rfl)
  | dmaAny =>
    rcases dmaAnyStep_cases s with ⟨-, he⟩ | ⟨-, he⟩ <;> rw [agentStep, he]
    · exact ⟨fun _ => rfl, fun _ => ⟨rfl, rfl⟩, .inl ⟨rfl, rfl⟩⟩
    · exact dmaStep_movesOwnDevice _ (.inr rfl)

/-! ## What each device has left to do -/

/-- How many bytes of the running transfer are still to move. -/
def dmaPending (s : State) : Nat := if s.dma.busy = true then s.dma.count.toNat - s.dma.moved.length else 0

theorem dmaPending_of_dma (h : t.dma = s.dma) : dmaPending t = dmaPending s := by rw [dmaPending, dmaPending, h]

theorem dmaPending_busy (h : s.dma.busy = true) : dmaPending s = s.dma.count.toNat - s.dma.moved.length := if_pos h

theorem dmaPending_idle (h : s.dma.busy = false) : dmaPending s = 0 := if_neg (by simp [h])

/-- A running transfer has a byte still to move (60_exceptions.md R265). -/
theorem dmaPending_pos (h : Inv s) (hbusy : s.dma.busy = true) : 0 < dmaPending s := by
  rw [dmaPending_busy hbusy]
  exact Nat.sub_pos_of_lt (h.dmaUnfinished hbusy)

theorem exists_stillToMove (h : Inv s) (hbusy : s.dma.busy = true) : ∃ i, StillToMove s.dma i := by
  by_contra hnone
  have hall : List.range s.dma.count.toNat ⊆ s.dma.moved := by
    intro i hi
    by_contra hnew
    exact hnone ⟨i, hbusy, List.mem_range.1 hi, hnew⟩
  have hlength := (List.nodup_range.subperm hall).length_le
  rw [List.length_range] at hlength
  exact absurd (h.dmaUnfinished hbusy) (Nat.not_lt.2 hlength)

/-- A byte moved is one less to move, and the last one leaves none. -/
theorem dmaPending_dmaStep (h : StillToMove s.dma i) : dmaPending (dmaStep i s) = dmaPending s - 1 := by
  have ⟨hbusy, _, _⟩ := h
  rw [dmaPending_busy hbusy]
  by_cases hlast : s.dma.moved.length + 1 = s.dma.count.toNat
  · obtain ⟨hdma, -⟩ := dmaStep_dma_finished h hlast
    rw [dmaPending_idle (by rw [hdma]; rfl)]
    omega
  · obtain ⟨hdma, -⟩ := dmaStep_dma_recorded h hlast
    rw [dmaPending_busy (by rw [hdma]; exact hbusy), hdma, List.length_cons, Nat.sub_sub]

theorem dmaPending_dmaStep_le (i : Nat) (s : State) : dmaPending (dmaStep i s) ≤ dmaPending s := by
  by_cases h : StillToMove s.dma i
  · rw [dmaPending_dmaStep h]
    exact Nat.sub_le _ _
  · rw [dmaStep_of_not_stillToMove h]

/-- `f` counts what is left to do for the agent of the turn `turn`: no turn of another agent adds to it, and one of
this agent takes something off it while there is some. -/
structure Drains (f : State → Nat) (turn : Turn) : Prop where
  newRound : ∀ s : State, f s.newRound = f s
  setSched : ∀ (s : State) l, f (s.setSched l) = f s
  le : ∀ other s, f (agentStep other s) ≤ f s
  lt : ∀ s, Claims.Inv s → 0 < f s → f (agentStep turn s) < f s

/-- The agent's own turn, taken off the list. -/
theorem Drains.lt_of_turn {f : State → Nat} (hf : Drains f turn) (rest : List Turn) (h : Inv s) (hpos : 0 < f s) :
    f (agentStep turn (s.setSched rest)) < f s := by
  rw [← hf.setSched s rest] at hpos ⊢
  exact hf.lt (s.setSched rest) (inv_setSched h) hpos

theorem timer_drains : Drains (fun s => s.timer.toNat) .timerTick := by
  have htick : ∀ s, (agentStep .timerTick s).timer.toNat = s.timer.toNat - 1 := by
    intro s
    have hlt := s.timer.isLt
    rw [agentStep, timerStep_eq, State.setTimer_timer, BitVec.toNat_ofNat, Nat.mod_eq_of_lt (by omega)]
  refine ⟨fun _ => rfl, fun _ _ => rfl, fun other s => ?_, fun s _ hpos => ?_⟩
  · by_cases hother : other = .timerTick
    · rw [hother, htick]
      exact Nat.sub_le _ _
    · rw [(agentStep_movesOwnDevice other s).timer hother]
  · rw [htick]
    exact Nat.sub_lt hpos Nat.one_pos

theorem txFifo_drains : Drains (fun s => s.uart.tx.length) .uartTransmit := by
  have hsend : ∀ s, (agentStep .uartTransmit s).uart.tx.length = s.uart.tx.length - 1 := by
    intro s
    rcases transmitStep_cases s with ⟨htx, he⟩ | ⟨b, q, htx, he⟩ <;> rw [agentStep, he, htx] <;> rfl
  refine ⟨fun _ => rfl, fun _ _ => rfl, fun other s => ?_, fun s _ hpos => ?_⟩
  · by_cases hother : other = .uartTransmit
    · rw [hother, hsend]
      exact Nat.sub_le _ _
    · obtain ⟨htx, -⟩ := (agentStep_movesOwnDevice other s).txFifo hother
      rw [htx]
  · rw [hsend]
    exact Nat.sub_lt hpos Nat.one_pos

theorem dma_drains : Drains dmaPending .dmaAny := by
  refine ⟨fun _ => rfl, fun _ _ => rfl, fun other s => ?_, fun s hinv hpos => ?_⟩
  · rcases (agentStep_movesOwnDevice other s).dma with ⟨hdma, -⟩ | ⟨i, v, hv, he⟩
    · rw [dmaPending_of_dma hdma]
    · rw [he]
      rcases hv with rfl | rfl
      · exact dmaPending_dmaStep_le i v
      · exact dmaPending_dmaStep_le i s.draw
  · rcases dmaAnyStep_cases s with ⟨hidle, -⟩ | ⟨hbusy, he⟩
    · rw [dmaPending_idle hidle] at hpos
      exact absurd hpos (Nat.lt_irrefl 0)
    · obtain ⟨i, hi⟩ := exists_stillToMove hinv hbusy
      have hpick : StillToMove s.draw.dma (dmaPick s) := dmaPick_stillToMove hi
      rw [agentStep, he, dmaPending_dmaStep hpick]
      exact Nat.sub_lt hpos Nat.one_pos

/-! ## Every device finishes its work -/

/-- From `s` to `t` no byte sent is taken back, and no byte is lost between the Tx FIFO and the bytes sent. -/
structure KeepsOutput (s t : State) : Prop where
  sent : s.uart.sent.length ≤ t.uart.sent.length
  queued : s.uart.tx.length + s.uart.sent.length ≤ t.uart.tx.length + t.uart.sent.length

theorem KeepsOutput.trans (h : KeepsOutput s t) (h' : KeepsOutput t u) : KeepsOutput s u :=
  ⟨h.sent.trans h'.sent, h.queued.trans h'.queued⟩

theorem agentStep_keepsOutput (turn : Turn) (s : State) : KeepsOutput s (agentStep turn s) := by
  by_cases hturn : turn = .uartTransmit
  · subst hturn
    rcases transmitStep_cases s with ⟨-, he⟩ | ⟨b, q, htx, he⟩ <;> rw [agentStep, he]
    · exact ⟨le_rfl, le_rfl⟩
    · refine ⟨by simp, ?_⟩
      rw [htx]
      simp only [State.setUart_uart, List.length_append, List.length_cons, List.length_nil]
      omega
  · obtain ⟨htx, hsent⟩ := (agentStep_movesOwnDevice turn s).txFifo hturn
    exact ⟨by rw [hsent], by rw [htx, hsent]⟩

theorem step_keepsOutput (h : step s = .next t) : KeepsOutput s t := by
  obtain ⟨u, hu, hmove⟩ := step_eq_next h
  have hsame : u.uart = s.uart := by rcases hu with rfl | ⟨rest, rfl⟩ <;> rfl
  have hmoved : KeepsOutput u t := by
    rcases hmove with ⟨i, hexec⟩ | ⟨turn, rfl⟩
    · have hleaves := exec_leavesAgents i hexec
      refine ⟨by rw [hleaves.sent], ?_⟩
      rw [hleaves.sent]
      exact Nat.add_le_add_right hleaves.queued _
    · exact agentStep_keepsOutput turn u
  obtain ⟨hsent, hqueued⟩ := hmoved
  rw [hsame] at hsent hqueued
  exact ⟨hsent, hqueued⟩

/-- After a turn that comes again, and its move, the run has gone on from a state at which the turn was the next one. -/
theorem run_after_turn (hturn : turn ∈ [Turn.timerTick, .uartTransmit, .dmaAny]) (s : State) :
    ∃ n, ∀ t : State, core.run (n + 1) s = .next t → ∃ (u : State) (rest : List Turn),
      core.run n s = .next u ∧ u.sched = turn :: rest ∧ t = agentStep turn (u.setSched rest) := by
  obtain ⟨n, hn⟩ := turn_comes_again (device_mem_roundOfTurns hturn) s
  refine ⟨n, fun t ht => ?_⟩
  obtain ⟨u, hu, hlast⟩ := run_succ_last_eq_next.1 ht
  obtain ⟨rest, hsched⟩ := hn u hu
  have hne : turn ≠ .core := by rintro rfl; simp at hturn
  cases (step_of_turn hsched hne).symm.trans hlast
  exact ⟨u, rest, hu, hsched, rfl⟩

/-- With bytes queued one is sent: at the transmitter's turn one has been sent before, or one is still queued. -/
theorem queued_byte_is_sent (h : s.uart.tx ≠ []) :
    ∃ n, ∀ t, core.run n s = .next t → s.uart.sent.length < t.uart.sent.length := by
  obtain ⟨n, hn⟩ := run_after_turn (turn := .uartTransmit) (by simp) s
  refine ⟨n + 1, fun t ht => ?_⟩
  obtain ⟨u, rest, hu, -, rfl⟩ := hn t ht
  obtain ⟨hsent, hsum⟩ : KeepsOutput s u :=
    run_preserves (P := KeepsOutput s) (fun _ _ h hstep => h.trans (step_keepsOutput hstep)) ⟨le_rfl, le_rfl⟩ hu
  have hpos := List.length_pos_iff.2 h
  rcases transmitStep_cases (u.setSched rest) with ⟨htx, he⟩ | ⟨b, q, -, he⟩ <;> rw [agentStep, he]
  · rw [State.setSched_uart] at htx
    rw [htx, List.length_nil] at hsum
    rw [State.setSched_uart]
    omega
  · rw [State.setUart_uart, List.length_append, List.length_singleton]
    exact Nat.lt_succ_of_le hsent

/-- A timer count that is not 0 changes, at the timer's turn or before. -/
theorem timer_changes (h : s.timer ≠ 0#16) :
    ∃ n, ∀ t, core.run n s = .next t → ∃ m u, m ≤ n ∧ core.run m s = .next u ∧ u.timer ≠ s.timer := by
  obtain ⟨n, hn⟩ := run_after_turn (turn := .timerTick) (by simp) s
  refine ⟨n + 1, fun t ht => ?_⟩
  obtain ⟨u, rest, hu, -, he⟩ := hn t ht
  by_cases hchanged : u.timer = s.timer
  · refine ⟨n + 1, t, le_rfl, ht, ?_⟩
    rw [he, agentStep, timerStep_eq, State.setTimer_timer, State.setSched_timer, hchanged]
    bv_omega
  · exact ⟨n, u, Nat.le_succ n, hu, hchanged⟩

/-- The engine is idle at some point of the run of `n` steps from `s`. -/
def IdleWithin (n : Nat) (s : State) : Prop :=
  ∃ (m : Nat) (u : State), m ≤ n ∧ core.run m s = .next u ∧ u.dma.busy = false

theorem IdleWithin.mono (h : IdleWithin m s) (hmn : m ≤ n) : IdleWithin n s := by
  obtain ⟨k, u, hk, hu⟩ := h
  exact ⟨k, u, hk.trans hmn, hu⟩

theorem IdleWithin.of_run (hu : core.run m s = .next u) (h : IdleWithin n u) : IdleWithin (m + n) s := by
  obtain ⟨k, v, hk, hv, hidle⟩ := h
  exact ⟨m + k, v, Nat.add_le_add_left hk m, run_add_eq_next.2 ⟨u, hu, hv⟩, hidle⟩

/-- While a transfer runs no step adds to the bytes still to move. -/
theorem step_dmaPending_le (hbusy : s.dma.busy = true) (h : step s = .next t) : dmaPending t ≤ dmaPending s := by
  obtain ⟨u, hu, hmove⟩ := step_eq_next h
  have hsame : u.dma = s.dma := by rcases hu with rfl | ⟨rest, rfl⟩ <;> rfl
  rw [← dmaPending_of_dma hsame]
  rcases hmove with ⟨i, hexec⟩ | ⟨turn, rfl⟩
  · exact (dmaPending_of_dma ((exec_leavesAgents i hexec).transfer (hsame ▸ hbusy))).le
  · exact dma_drains.le turn u

theorem run_idle_or_dmaPending_le (h : core.run n s = .next t) :
    IdleWithin n s ∨ (t.dma.busy = true ∧ dmaPending t ≤ dmaPending s) := by
  induction n generalizing t with
  | zero =>
    cases h
    cases hbusy : s.dma.busy
    · exact .inl ⟨0, s, le_rfl, rfl, hbusy⟩
    · exact .inr ⟨rfl, le_rfl⟩
  | succ n ih =>
    obtain ⟨u, hu, hlast⟩ := run_succ_last_eq_next.1 h
    rcases ih hu with hidle | ⟨hbusy, hle⟩
    · exact .inl (hidle.mono (Nat.le_succ n))
    · cases hbusy' : t.dma.busy
      · exact .inl ⟨n + 1, t, le_rfl, h, hbusy'⟩
      · exact .inr ⟨rfl, (step_dmaPending_le hbusy hlast).trans hle⟩

/-- Each turn of the engine brings a running transfer nearer to its end. -/
theorem transfer_ends (h : Inv s) : ∃ n, ∀ t, core.run n s = .next t → IdleWithin n s := by
  induction hk : dmaPending s using Nat.strong_induction_on generalizing s with
  | _ k ih =>
    subst hk
    obtain ⟨n, hn⟩ := run_after_turn (turn := .dmaAny) (by simp) s
    by_cases hstop : ∃ v, core.run (n + 1) s = .next v
    · obtain ⟨v, hv⟩ := hstop
      obtain ⟨u, rest, hu, -, he⟩ := hn v hv
      have hinv : Inv u := run_preserves everyStepKeepsTheInvariant h hu
      rcases run_idle_or_dmaPending_le hu with hidle | ⟨hbusy, hle⟩
      · exact ⟨n, fun _ _ => hidle⟩
      · have hlt : dmaPending v < dmaPending s := by
          rw [he]
          exact (dma_drains.lt_of_turn rest hinv (dmaPending_pos hinv hbusy)).trans_le hle
        obtain ⟨n', hn'⟩ := ih _ hlt (run_preserves everyStepKeepsTheInvariant h hv) rfl
        refine ⟨n + 1 + n', fun t ht => ?_⟩
        obtain ⟨v', hv', ht⟩ := run_add_eq_next.1 ht
        cases hv.symm.trans hv'
        exact (hn' t ht).of_run hv
    · exact ⟨n + 1, fun t ht => absurd ⟨t, ht⟩ hstop⟩

end

/-- Settles O50: each device's own turn comes again, the engine's as often as it has bytes still to move. -/
theorem devicesFinishTheirWork : Obligations.DevicesFinishTheirWork := fun _ =>
  ⟨queued_byte_is_sent, timer_changes, fun hinv _ => transfer_ends hinv⟩

end Sys2Proof.Proofs
end

section
/-! A self jump. A core that repeats `JMP.AL` to its own address changes nothing, so what the devices have left to do
only goes down, and comes to nothing (70_reset_and_hazards.md R294). -/

namespace Sys2Proof.Proofs

open Sys2Proof.Machine Sys2Proof.Claims

section
variable {s t u : State} {n : Nat} {f : State → Nat} {turn : Turn}

/-! ## The core's turn and the turns of the others -/

/-- The next instruction is `JMP.AL` to its own address, and no running transfer can overwrite it. -/
structure SelfJump (s : State) : Prop where
  inv : Inv s
  first : Fetchable s s.pc
  second : Fetchable s (s.pc + 2#16)
  jump : decode (s.ramWord s.pc) (s.ramWord (s.pc + 2#16)) = .ok (.jmpI .al s.pc)
  table : s.cfg.condTable = Config.printedCondTable
  outOfRam : s.dma.busy = true → s.dma.kind = 0#3

theorem exec_selfJump (htable : s.cfg.condTable = Config.printedCondTable) (heven : s.pc.toNat % 2 = 0) :
    exec (.jmpI .al s.pc) s = .next s := by
  obtain ⟨htaken, -⟩ := jumpGoesToItsTarget s _ _ _ _ (.immediate .al s.pc)
  exact htaken ((conditionsArePrintedExpressions s .al htable).2 trivial) heven

/-- A step is a new round, with the core's turn, or takes a turn off the list: the core's own changes nothing else. -/
theorem SelfJump.step_eq (h : SelfJump s) :
    ∃ u turn, (u = s.newRound ∨ ∃ rest, u = s.setSched rest) ∧ step s = .next (agentStep turn u) := by
  obtain ⟨hempty, hcore⟩ := stepRunsDecodedInstruction s _ h.first (fun _ => h.second) h.jump
  obtain ⟨heven, -⟩ := h.first
  rcases step_cases s with ⟨hsched, -⟩ | ⟨rest, hsched, -⟩ | ⟨turn, rest, -, -, hstep⟩
  · exact ⟨s.newRound, .core, .inl rfl, (hempty hsched).trans (exec_selfJump (s := s.newRound) h.table heven)⟩
  · exact ⟨s.setSched rest, .core, .inr ⟨rest, rfl⟩,
      (hcore rest hsched).trans (exec_selfJump (s := s.setSched rest) h.table heven)⟩
  · exact ⟨s.setSched rest, turn, .inr ⟨rest, rfl⟩, hstep⟩

theorem dmaStep_outOfRam (i : Nat) (h : s.dma.busy = true → s.dma.kind = 0#3) :
    (dmaStep i s).mem = s.mem ∧ ((dmaStep i s).dma.busy = true → (dmaStep i s).dma.kind = 0#3) := by
  by_cases hmove : StillToMove s.dma i
  · have ⟨hbusy, _, _⟩ := hmove
    obtain ⟨hmem, -⟩ := dmaStep_write hmove (h hbusy)
    refine ⟨hmem, fun _ => ?_⟩
    by_cases hlast : s.dma.moved.length + 1 = s.dma.count.toNat
    · obtain ⟨hdma, -⟩ := dmaStep_dma_finished hmove hlast
      rw [hdma]
      exact h hbusy
    · obtain ⟨hdma, -⟩ := dmaStep_dma_recorded hmove hlast
      rw [hdma]
      exact h hbusy
  · rw [dmaStep_of_not_stillToMove hmove]
    exact ⟨rfl, h⟩

/-- A transfer out of RAM leaves RAM, and no turn makes it one into RAM. -/
theorem agentStep_outOfRam (turn : Turn) (h : s.dma.busy = true → s.dma.kind = 0#3) :
    (agentStep turn s).mem = s.mem ∧ ((agentStep turn s).dma.busy = true → (agentStep turn s).dma.kind = 0#3) := by
  rcases (agentStep_movesOwnDevice turn s).dma with ⟨hdma, hmem⟩ | ⟨i, v, hv, he⟩
  · rw [hdma]
    exact ⟨hmem, h⟩
  · rw [he]
    rcases hv with rfl | rfl
    · exact dmaStep_outOfRam i h
    · exact dmaStep_outOfRam (s := s.draw) i h

theorem agentStep_leavesCore (turn : Turn) (s : State) : LeavesCore s (agentStep turn s) := by
  rw [agentStep_frame]
  exact ⟨rfl, rfl, rfl, rfl, rfl⟩

/-! ## The loop -/

/-- `t` is reached from `s` in the loop of a self jump: the core and RAM are as before, and nothing was added to what
the devices have left to do. -/
structure LoopsTo (s t : State) : Prop where
  jump : SelfJump t
  core : LeavesCore s t
  mem : t.mem = s.mem
  left : ∀ f turn, Drains f turn → f t ≤ f s

theorem LoopsTo.refl (h : SelfJump s) : LoopsTo s s := ⟨h, ⟨rfl, rfl, rfl, rfl, rfl⟩, rfl, fun _ _ _ => le_rfl⟩

theorem LoopsTo.trans (h : LoopsTo s t) (h' : LoopsTo t u) : LoopsTo s u where
  jump := h'.jump
  core := ⟨h'.core.regs.trans h.core.regs, h'.core.pc.trans h.core.pc, h'.core.lr.trans h.core.lr,
    h'.core.flags.trans h.core.flags, h'.core.cfg.trans h.core.cfg⟩
  mem := h'.mem.trans h.mem
  left f turn hf := (h'.left f turn hf).trans (h.left f turn hf)

/-- The same instruction stands at the same `pc`. -/
theorem SelfJump.of_same (h : SelfJump s) (hinv : Inv t) (hcore : LeavesCore s t) (hmem : t.mem = s.mem)
    (hout : t.dma.busy = true → t.dma.kind = 0#3) : SelfJump t := by
  obtain ⟨-, hfirst, hsecond, hjump, htable, -⟩ := h
  have hword : ∀ a, t.ramWord a = s.ramWord a := by
    intro a
    rw [State.ramWord, State.ramWord, hcore.cfg, ramByte_of_mem hmem, ramByte_of_mem hmem]
  refine ⟨hinv, ?_, ?_, ?_, hcore.cfg ▸ htable, hout⟩
  · rwa [hcore.pc, Fetchable, hcore.cfg]
  · rwa [hcore.pc, Fetchable, hcore.cfg]
  · rwa [hcore.pc, hword, hword]

theorem SelfJump.step (h : SelfJump s) : ∃ t, step s = .next t ∧ LoopsTo s t := by
  obtain ⟨u, turn, hu, hstep⟩ := h.step_eq
  have hout : u.dma.busy = true → u.dma.kind = 0#3 := by rcases hu with rfl | ⟨rest, rfl⟩ <;> exact h.outOfRam
  obtain ⟨hmem, hout'⟩ := agentStep_outOfRam turn hout
  have hcore := agentStep_leavesCore turn u
  have hsame : LeavesCore s (agentStep turn u) ∧ (agentStep turn u).mem = s.mem := by
    rcases hu with rfl | ⟨rest, rfl⟩ <;> exact ⟨⟨hcore.regs, hcore.pc, hcore.lr, hcore.flags, hcore.cfg⟩, hmem⟩
  obtain ⟨hcore', hmem'⟩ := hsame
  have hinv := everyStepKeepsTheInvariant s _ h.inv hstep
  refine ⟨_, hstep, h.of_same hinv hcore' hmem' hout', hcore', hmem', fun f own hf => (hf.le turn u).trans ?_⟩
  rcases hu with rfl | ⟨rest, rfl⟩
  · exact (hf.newRound s).le
  · exact (hf.setSched s rest).le

/-- The loop never stops. -/
theorem SelfJump.run (h : SelfJump s) (n : Nat) : ∃ t, core.run n s = .next t ∧ LoopsTo s t := by
  induction n with
  | zero => exact ⟨s, rfl, .refl h⟩
  | succ n ih =>
    obtain ⟨u, hu, hloop⟩ := ih
    obtain ⟨t, ht, hloop'⟩ := hloop.jump.step
    exact ⟨t, run_succ_last_eq_next.2 ⟨u, hu, ht⟩, hloop.trans hloop'⟩

/-- In the loop a device finishes its work: its turn comes again as long as something is left. -/
theorem SelfJump.drained (h : SelfJump s) (hf : Drains f turn)
    (hturn : turn ∈ [Turn.timerTick, .uartTransmit, .dmaAny]) :
    ∃ n t, core.run n s = .next t ∧ LoopsTo s t ∧ f t = 0 := by
  induction hk : f s using Nat.strong_induction_on generalizing s with
  | _ k ih =>
    subst hk
    obtain ⟨n, hn⟩ := run_after_turn hturn s
    obtain ⟨t, ht, hloop⟩ := h.run (n + 1)
    obtain ⟨u, rest, hu, -, he⟩ := hn t ht
    obtain ⟨u', hu', hloop'⟩ := h.run n
    cases hu.symm.trans hu'
    by_cases hzero : f u = 0
    · exact ⟨n, u, hu, hloop', hzero⟩
    · have hlt : f t < f s := by
        rw [he]
        exact (hf.lt_of_turn rest hloop'.jump.inv (Nat.pos_of_ne_zero hzero)).trans_le (hloop'.left f turn hf)
      obtain ⟨n', t', ht', hloop'', hzero'⟩ := ih _ hlt hloop.jump rfl
      exact ⟨n + 1 + n', t', run_add_eq_next.2 ⟨t, ht, ht'⟩, hloop.trans hloop'', hzero'⟩

end

/-- Settles O51: the three devices finish one after the other, and what is finished stays so. -/
theorem devicesRunOnDuringASelfJump : Obligations.DevicesRunOnDuringASelfJump := by
  intro s hinv hfirst hsecond hjump htable hout
  have h : SelfJump s := ⟨hinv, hfirst, hsecond, hjump, htable, hout⟩
  obtain ⟨n, u, hu, hloop, htimer⟩ := h.drained timer_drains (by simp)
  obtain ⟨n', v, hv, hloop', htx⟩ := hloop.jump.drained txFifo_drains (by simp)
  obtain ⟨n'', t, ht, hloop'', hdma⟩ := hloop'.jump.drained dma_drains (by simp)
  obtain ⟨hjump, hcore, hmem, -⟩ := (hloop.trans hloop').trans hloop''
  refine ⟨n + n' + n'', t, run_add_eq_next.2 ⟨v, run_add_eq_next.2 ⟨u, hu, hv⟩, ht⟩, ?_, ?_, ?_, hcore.regs, hcore.pc,
    hcore.lr, hcore.flags, hmem⟩
  · have hle := (hloop'.trans hloop'').left _ _ timer_drains
    exact BitVec.eq_of_toNat_eq (Nat.le_zero.1 (htimer ▸ hle))
  · have hle := hloop''.left _ _ txFifo_drains
    exact List.eq_nil_of_length_eq_zero (Nat.le_zero.1 (htx ▸ hle))
  · by_contra hbusy
    exact absurd hdma (dmaPending_pos hjump.inv (by simpa using hbusy)).ne'

end Sys2Proof.Proofs
end
